-- ==== Sys2Proof/Word.lean ====
section
/-! DEFINITION. The widths of the values the GHCTR unit moves (spec 00_scope.md R4, R5; 30_encoding.md R71). -/

namespace Sys2Proof

/-- One byte of a block, a chunk or a record (R5). -/
abbrev Byte := BitVec 8

/-- A command word, and the value of `STATUS` (R25, R26). -/
abbrev Word := BitVec 32

/-- A 128-bit value: a block under the big-endian map of R5, an element of GF(2^128) under the map of R6. -/
abbrev Block := BitVec 128

/-- A length counter, in bits (R37). -/
abbrev BitCount := BitVec 64

/-- The `NB` field of a command word (R71, R73). -/
abbrev Count := BitVec 5

/-- An index into the 16-entry table: a 4-bit window (R95). -/
abbrev Nibble := BitVec 4

end Sys2Proof
end

