-- ==== Sys2Proof/Config.lean ====
section
/-! DEFINITION. What the spec leaves open: the external block cipher (spec 00_scope.md R4, R9), and the length block of
strings too long for it (41_ghash.md R122). -/

namespace Sys2Proof

/-- The block cipher `E` under the engine's key (R9): a total function of its argument alone, of which nothing else is
known. It is not AES, and not known to be a permutation. Assumption log 1. -/
opaque Config.blockCipher : Block → Block

/-- The last block of the GHASH of two strings of the given lengths in bits, where one of them is 2^64 or more: R122
defines `len_block` only below, and the source is silent beyond (91_not_in_source.md N9). A free value. DESIGN CHOICE,
assumption log 10. -/
opaque Config.overlongLengthBlock : Nat → Nat → Block

end Sys2Proof
end

