-- ==== Sys2Proof/Syntax.lean ====
section
/-! DEFINITION. The 15 commands of GHCTR command set 1.0 (spec 30_encoding.md R72, R74), one constructor per row of
spec/opcode_table.json. The only operand a command word carries is the byte count `NB` of the three format-N commands
(R73); every other operand is implicit. -/

namespace Sys2Proof

/-- A command. `nb` is the raw 5-bit `NB` field: its range 1 to 16 is checked when the command runs (R75 step 5),
and by `Instr.wellFormed`. -/
inductive Instr where
  /-- `NOP`: do nothing (R165). -/
  | nop
  /-- `GFMUL`: general field multiply (R100). -/
  | gfmul
  /-- `HLOAD`: load a subkey from `OPA` and build its table (R101). -/
  | hload
  /-- `HKEY`: derive the subkey through the block cipher and build its table (R102). -/
  | hkey
  /-- `HMUL`: multiply `OPA` by the loaded subkey through the table (R103). -/
  | hmul
  /-- `GHINIT`: begin a message (R125). -/
  | ghinit
  /-- `GHAAD nb`: absorb one chunk of AAD (R126). -/
  | ghaad (nb : Count)
  /-- `GHCT nb`: absorb one chunk of ciphertext (R127). -/
  | ghct (nb : Count)
  /-- `GHLEN`: absorb the length block and finish (R128). -/
  | ghlen
  /-- `INC32`: increment the counter block (R145). -/
  | inc32
  /-- `CTRXOR nb`: one iteration of `encrypt_ctr` (R146). -/
  | ctrxor (nb : Count)
  /-- `TAGGEN`: form the tag (R157). -/
  | taggen
  /-- `TAGCMP`: compare a received tag with the expected one (R158). -/
  | tagcmp
  /-- `CLRERR`: acknowledge a fault (R166). -/
  | clrerr
  /-- `SRESET`: soft reset (R167). -/
  | sreset
  deriving DecidableEq, Repr

end Sys2Proof
end

