-- ==== Sys2Proof/WellFormed.lean ====
section
/-! DEFINITION. Which command terms stand for a legal command word (spec 30_encoding.md R72, R73, R76). -/

namespace Sys2Proof

/-- R73: the legal values of `NB` in a format-N command are 1 to 16. -/
def countLegal (nb : Count) : Bool :=
  decide (1 ≤ nb.toNat) && decide (nb.toNat ≤ 16)

/-- R72, R73: a format-Z command is always well-formed; a format-N command is when its byte count is 1 to 16. -/
def Instr.wellFormed : Instr → Bool
  | .nop | .gfmul | .hload | .hkey | .hmul | .ghinit | .ghlen | .inc32 | .taggen | .tagcmp | .clrerr | .sreset => true
  | .ghaad nb | .ghct nb | .ctrxor nb => countLegal nb

end Sys2Proof
end

