-- ==== Sys2Proof/Decode.lean ====
section
/-! DEFINITION. Command words (spec 30_encoding.md R70 to R76): the fields, the decoder, total on every 32-bit word and
rejecting by name, and the encoder. A command is one 32-bit word (R70): nothing is fetched and no byte order applies. -/

namespace Sys2Proof

/-- R71: `OPC = w[7:0]`. -/
def opcodeField (w : Word) : BitVec 8 := w.extractLsb' 0 8

/-- R71: `NB = w[12:8]`. -/
def countField (w : Word) : Count := w.extractLsb' 8 5

/-- R71: `RSV = w[31:13]`. -/
def reservedField (w : Word) : BitVec 19 := w.extractLsb' 13 19

/-- Why a word is no command (R75 step 4, R76 (a) to (c)). Each of the three is the fault `ERR_OPCODE`. -/
inductive DecodeError where
  /-- R76 (b): `RSV` is not zero. -/
  | reservedBitsSet
  /-- R76 (a): `OPC` is none of the 15 opcodes. -/
  | unknownOpcode
  /-- R76 (c): a format-Z opcode with `NB` not zero. -/
  | countInFormatZ
  deriving DecidableEq, Repr

/-- R72: a format-Z word has `NB = 0`. -/
def formatZ (nb : Count) (i : Instr) : Except DecodeError Instr :=
  if nb = 0 then .ok i else .error .countInFormatZ

/-- R74: the command an opcode selects, given the word's `NB` field. -/
def selectCommand (opc : BitVec 8) (nb : Count) : Except DecodeError Instr :=
  match opc with
  | 0x00#8 => formatZ nb .nop
  | 0x01#8 => formatZ nb .gfmul
  | 0x02#8 => formatZ nb .hload
  | 0x03#8 => formatZ nb .hkey
  | 0x04#8 => formatZ nb .hmul
  | 0x10#8 => formatZ nb .ghinit
  | 0x11#8 => .ok (.ghaad nb)
  | 0x12#8 => .ok (.ghct nb)
  | 0x13#8 => formatZ nb .ghlen
  | 0x20#8 => formatZ nb .inc32
  | 0x21#8 => .ok (.ctrxor nb)
  | 0x30#8 => formatZ nb .taggen
  | 0x31#8 => formatZ nb .tagcmp
  | 0x7E#8 => formatZ nb .clrerr
  | 0x7F#8 => formatZ nb .sreset
  | _ => .error .unknownOpcode

/-- R74, R75 step 4: the command a word selects. For format N the `NB` bits are outside the row's mask, so a word with
an illegal count still selects its command; step 5, part of the command's meaning, checks the count. -/
def decode (w : Word) : Except DecodeError Instr :=
  if reservedField w = 0 then selectCommand (opcodeField w) (countField w) else .error .reservedBitsSet

/-- R74: the opcode of each command. -/
def Instr.opcode : Instr → BitVec 8
  | .nop => 0x00
  | .gfmul => 0x01
  | .hload => 0x02
  | .hkey => 0x03
  | .hmul => 0x04
  | .ghinit => 0x10
  | .ghaad _ => 0x11
  | .ghct _ => 0x12
  | .ghlen => 0x13
  | .inc32 => 0x20
  | .ctrxor _ => 0x21
  | .taggen => 0x30
  | .tagcmp => 0x31
  | .clrerr => 0x7E
  | .sreset => 0x7F

/-- R72: the `NB` field of a command: its byte count in format N, 0 in format Z. -/
def Instr.count : Instr → Count
  | .ghaad nb | .ghct nb | .ctrxor nb => nb
  | .nop | .gfmul | .hload | .hkey | .hmul | .ghinit | .ghlen | .inc32 | .taggen | .tagcmp | .clrerr | .sreset => 0

/-- R71: `w = (RSV << 13) | (NB << 8) | OPC` with `RSV = 0`. -/
def commandWord (opc : BitVec 8) (nb : Count) : Word :=
  (nb.setWidth 32 <<< 8) ||| opc.setWidth 32

/-- The word of a command (R72, R74). -/
def encode (i : Instr) : Word := commandWord i.opcode i.count

/-- R74, column `mask`: the bits that select the command; in format N the `NB` bits are outside it. -/
def Instr.rowMask : Instr → Word
  | .ghaad _ | .ghct _ | .ctrxor _ => 0xFFFFE0FF
  | .nop | .gfmul | .hload | .hkey | .hmul | .ghinit | .ghlen | .inc32 | .taggen | .tagcmp | .clrerr | .sreset =>
    0xFFFFFFFF

/-- R74, column `match`. -/
def Instr.rowMatch (i : Instr) : Word := i.opcode.setWidth 32

/-- What the decoder reads from an instruction of `nbits` bits whose bits are `w`, numbered as spec/opcode_table.json
numbers them. Every command is one 32-bit word (R70). -/
def decodeTableWord (nbits w : Nat) : Option Instr :=
  match decode (BitVec.ofNat 32 (w % 2 ^ nbits)) with
  | .ok i => some i
  | .error _ => none

end Sys2Proof
end

