-- ==== Sys2Proof/Machine/HostPort.lean ====
section
/-! DEFINITION. The host port (spec 20_memory.md R50 to R59, 10_state.md R41): register numbers, the two host operations
with their values typed by the register (R54), what a read returns, and the line syntax of host programs (30_encoding.md
R77). -/

namespace Sys2Proof.Machine

/-- R41, R50: the sixteen register numbers. `unmapped k` is number `9 + k`. -/
inductive Reg where
  | cmd | status | opa | opb | res | y | cb | lena | lenc
  | unmapped (k : Fin 7)
  deriving DecidableEq, Repr

/-- R41: the number of a register. -/
def Reg.number : Reg → BitVec 4
  | .cmd => 0x0
  | .status => 0x1
  | .opa => 0x2
  | .opb => 0x3
  | .res => 0x4
  | .y => 0x5
  | .cb => 0x6
  | .lena => 0x7
  | .lenc => 0x8
  | .unmapped k => BitVec.ofNat 4 (9 + k.val)

/-- R41, R50: the register a number names; 0x9 to 0xF are unmapped. -/
def Reg.ofNumber (n : BitVec 4) : Reg :=
  match n with
  | 0x0#4 => .cmd
  | 0x1#4 => .status
  | 0x2#4 => .opa
  | 0x3#4 => .opb
  | 0x4#4 => .res
  | 0x5#4 => .y
  | 0x6#4 => .cb
  | 0x7#4 => .lena
  | 0x8#4 => .lenc
  | 0x9#4 => .unmapped 0
  | 0xA#4 => .unmapped 1
  | 0xB#4 => .unmapped 2
  | 0xC#4 => .unmapped 3
  | 0xD#4 => .unmapped 4
  | 0xE#4 => .unmapped 5
  | _ => .unmapped 6

/-- R41, R58: the width of a mapped register; an unmapped number has none. -/
def Reg.width : Reg → Option Nat
  | .cmd | .status => some 32
  | .lena | .lenc => some 64
  | .opa | .opb | .res | .y | .cb => some 128
  | .unmapped _ => none

/-- The register and the value of a `WR(r, v)`. The value has exactly the register's width, so a value too wide cannot
be expressed (R54, 90_conflicts.md C8); an unmapped number has no width and carries no value (assumption log 6). -/
inductive RegWrite where
  | cmd (w : Word)
  | status (v : Word)
  | opa (v : Block)
  | opb (v : Block)
  | res (v : Block)
  | y (v : Block)
  | cb (v : Block)
  | lena (v : BitCount)
  | lenc (v : BitCount)
  | unmapped (k : Fin 7)
  deriving DecidableEq, Repr

/-- The register a write names. -/
def RegWrite.reg : RegWrite → Reg
  | .cmd _ => .cmd
  | .status _ => .status
  | .opa _ => .opa
  | .opb _ => .opb
  | .res _ => .res
  | .y _ => .y
  | .cb _ => .cb
  | .lena _ => .lena
  | .lenc _ => .lenc
  | .unmapped k => .unmapped k

/-- The value a write carries, as a number; 0 where it carries none. -/
def RegWrite.value : RegWrite → Nat
  | .cmd v | .status v => v.toNat
  | .opa v | .opb v | .res v | .y v | .cb v => v.toNat
  | .lena v | .lenc v => v.toNat
  | .unmapped _ => 0

/-- R10, R53, R54: a host operation. -/
inductive HostOp where
  /-- `RD(r)`. -/
  | read (r : Reg)
  /-- `WR(r, v)`. -/
  | write (w : RegWrite)
  deriving DecidableEq, Repr

/-- R10, R230: what can happen to the unit from outside: a host operation, or a hardware reset, which arrives between
two host operations. -/
inductive Input where
  | op (o : HostOp)
  | hardwareReset
  deriving DecidableEq, Repr

/-- What a `RD` returns: a value of the register's width, or the 0 "at any width" of a faulting read (R53). -/
inductive PortValue where
  | bits32 (v : Word)
  | bits64 (v : BitCount)
  | bits128 (v : Block)
  | zero
  deriving DecidableEq, Repr

/-- The returned value as a number. -/
def PortValue.toNat : PortValue → Nat
  | .bits32 v => v.toNat
  | .bits64 v => v.toNat
  | .bits128 v => v.toNat
  | .zero => 0

/-- R77: the encoding of a host operation, the triple `(op, register number, value)`. -/
structure Triple where
  isWrite : Bool
  number : BitVec 4
  value : Nat
  deriving DecidableEq, Repr

/-- R77: the triple of a host operation; a read carries no value. -/
def HostOp.triple : HostOp → Triple
  | .read r => ⟨false, r.number, 0⟩
  | .write w => ⟨true, w.reg.number, w.value⟩

/-- The write of value `v` to register `r`, if `v` has the register's width (R54). -/
def regWriteOf (r : Reg) (v : Nat) : Option RegWrite :=
  match r with
  | .cmd => if v < 2 ^ 32 then some (.cmd (BitVec.ofNat 32 v)) else none
  | .status => if v < 2 ^ 32 then some (.status (BitVec.ofNat 32 v)) else none
  | .opa => if v < 2 ^ 128 then some (.opa (BitVec.ofNat 128 v)) else none
  | .opb => if v < 2 ^ 128 then some (.opb (BitVec.ofNat 128 v)) else none
  | .res => if v < 2 ^ 128 then some (.res (BitVec.ofNat 128 v)) else none
  | .y => if v < 2 ^ 128 then some (.y (BitVec.ofNat 128 v)) else none
  | .cb => if v < 2 ^ 128 then some (.cb (BitVec.ofNat 128 v)) else none
  | .lena => if v < 2 ^ 64 then some (.lena (BitVec.ofNat 64 v)) else none
  | .lenc => if v < 2 ^ 64 then some (.lenc (BitVec.ofNat 64 v)) else none
  | .unmapped k => some (.unmapped k)

/-- The host operation a triple encodes; none where the value does not fit the register (R54: it cannot be expressed). -/
def hostOpOfTriple (t : Triple) : Option HostOp :=
  if t.isWrite then (regWriteOf (Reg.ofNumber t.number) t.value).map .write else some (.read (Reg.ofNumber t.number))

/-- R77: a line of a host program. -/
inductive AsmLine where
  /-- `wr OPA, v`. -/
  | wrOpa (v : Block)
  /-- `wr OPB, v`. -/
  | wrOpb (v : Block)
  /-- `wr CB, v`. -/
  | wrCb (v : Block)
  /-- `rd REG`. -/
  | rd (r : Reg)
  /-- `<mnemonic>` or `<mnemonic> <nb>`. -/
  | command (i : Instr)
  /-- `cmd <hex32>`: a raw command word. -/
  | cmd (w : Word)
  deriving DecidableEq, Repr

/-- R77: the names `rd` may take are the eight readable registers; the `nb` of a mnemonic line is 1 to 16. -/
def AsmLine.wellFormed : AsmLine → Bool
  | .wrOpa _ | .wrOpb _ | .wrCb _ | .cmd _ => true
  | .rd .cmd | .rd (.unmapped _) => false
  | .rd .status | .rd .opa | .rd .opb | .rd .res | .rd .y | .rd .cb | .rd .lena | .rd .lenc => true
  | .command i => i.wellFormed

/-- R77: the host operation of a line. -/
def AsmLine.hostOp : AsmLine → HostOp
  | .wrOpa v => .write (.opa v)
  | .wrOpb v => .write (.opb v)
  | .wrCb v => .write (.cb v)
  | .rd r => .read r
  | .command i => .write (.cmd (encode i))
  | .cmd w => .write (.cmd w)

end Sys2Proof.Machine
end

