-- ==== Sys2Proof/Machine/State.lean ====
section
/-! DEFINITION. The machine's state (spec 10_state.md R20 to R40), with the two other agents of 00_scope.md R10 as plain
data beside the unit, the reasons a step could stop, and the state after reset (R40, R230). -/

namespace Sys2Proof.Machine

/-- `STATUS.PHASE` (R29): where the GHASH accumulator stands in the fixed block order. -/
inductive Phase where
  /-- No message begun since reset. -/
  | idle
  /-- `GHINIT` done: AAD chunks, ciphertext chunks or the length block may follow. -/
  | aad
  /-- At least one ciphertext chunk absorbed. -/
  | ct
  /-- The length block has been absorbed: `Y` holds the GHASH value. -/
  | done
  deriving DecidableEq, Repr

/-- `STATUS.ERR` (R31, 60_exceptions.md R201): the cause code of the first fault since it was last clear. Codes 8 to 15
are never produced, so they have no constructor (assumption log 5). -/
inductive ErrCode where
  /-- Code 0: not faulted. -/
  | clear
  /-- Code 1, `ERR_OPCODE`: the word is no command. -/
  | opcode
  /-- Code 2, `ERR_NB`: the byte count is 0 or above 16. -/
  | nb
  /-- Code 3, `ERR_NOH`: no subkey loaded since reset. -/
  | noh
  /-- Code 4, `ERR_SEQ`: not allowed in the current phase, or a chunk after a short chunk. -/
  | seq
  /-- Code 5, `ERR_LEN`: a length counter would pass 2^64 - 1. -/
  | len
  /-- Code 6, `ERR_AUTH`: the received tag differs from the expected tag. -/
  | auth
  /-- Code 7, `ERR_ACCESS`: a register access R41 does not allow. -/
  | access
  deriving DecidableEq, Repr

/-- R20: the complete architectural state of the unit. -/
structure GhctrUnit where
  /-- `OPA`, operand A (R21). -/
  opa : Block
  /-- `OPB`, operand B of `GFMUL` (R22). -/
  opb : Block
  /-- `RES`, the result (R23). -/
  res : Block
  /-- `H`, the hash subkey (R32). -/
  h : Block
  /-- `TBL[0..15]`, the precomputed GHASH table (R33). -/
  tbl : Vector Block 16
  /-- `Y`, the GHASH accumulator (R35). -/
  y : Block
  /-- `CB`, the counter block (R36). -/
  cb : Block
  /-- `LENA`, AAD bits absorbed since `GHINIT` (R37). -/
  lena : BitCount
  /-- `LENC`, ciphertext bits absorbed since `GHINIT` (R37). -/
  lenc : BitCount
  /-- `STATUS.HVALID` (R28). -/
  hvalid : Bool
  /-- `STATUS.PHASE` (R29). -/
  phase : Phase
  /-- `STATUS.TAGOK` (R30). -/
  tagok : Bool
  /-- `STATUS.ERR` (R31). -/
  err : ErrCode
  deriving DecidableEq, Repr

/-- R40: every component is zero. -/
def GhctrUnit.reset : GhctrUnit where
  opa := 0
  opb := 0
  res := 0
  h := 0
  tbl := Vector.replicate 16 0
  y := 0
  cb := 0
  lena := 0
  lenc := 0
  hvalid := false
  phase := .idle
  tagok := false
  err := .clear

/-- The unit with the two agents that act on it (00_scope.md R10): the block cipher, which only answers `E`, and the
host, which issues one operation after another and sees what each read returns. -/
structure State where
  /-- The unit's architectural state (R20). -/
  unit : GhctrUnit
  /-- The points at which this run's block cipher is known; elsewhere it is `Config.blockCipher`. No step changes it
  (R9, R231). The model's own field, assumption log 1. -/
  cipher : List (Block × Block)
  /-- What the outside has yet to do to the unit, next first (R10, R24, R60). The model's own field, assumption log 2. -/
  inputs : List Input
  /-- What the host's reads have returned so far, oldest first (R53). The model's own field, assumption log 2. -/
  replies : List PortValue
  deriving DecidableEq, Repr

/-- A step never stops with a fault: every fault of the unit is a code recorded in `STATUS.ERR` in a next state (R11,
R200, R204), and the unit has no hang, no undefined result and no unpredictable behaviour (R11, 93_implementation_defined.md
section 2). So the type has no constructor. Safe: nothing is stopped that the hardware runs (assumption log 3). -/
inductive Fault
  deriving DecidableEq, Repr

/-- Why the model would refuse an instruction. The spec's own "Refused" outcome (R11, R205) is a next state in which
nothing changed, and is not this. -/
inductive Refusal where
  /-- The instruction has no meaning in the model yet: raised by `exec`'s arms alone. Safe. No arm raises it now. -/
  | notModelled (mnemonic : String)
  deriving DecidableEq, Repr

/-- The machine right after reset (R40, R230): the unit all zero, no point of the cipher fixed, nothing yet asked of the
unit and nothing yet read. -/
def State.reset : State where
  unit := GhctrUnit.reset
  cipher := []
  inputs := []
  replies := []

end Sys2Proof.Machine
end

