-- ==== Sys2Proof/Machine/Flags.lean ====
section
/-! DEFINITION. The fields of `STATUS` and the conditions commands read from the flags and the length counters (spec
10_state.md R26 to R31, R37; 41_ghash.md R124, R126, R127). -/

namespace Sys2Proof.Machine

/-- R27: the 2-bit `PHASE` field. -/
def Phase.code : Phase → BitVec 2
  | .idle => 0
  | .aad => 1
  | .ct => 2
  | .done => 3

/-- R201: the 4-bit `ERR` field. -/
def ErrCode.code : ErrCode → BitVec 4
  | .clear => 0
  | .opcode => 1
  | .nb => 2
  | .noh => 3
  | .seq => 4
  | .len => 5
  | .auth => 6
  | .access => 7

/-- R27: a one-bit flag as its bit. -/
def flagBit (b : Bool) : BitVec 1 := if b then 1 else 0

/-- R26, R27: `STATUS = zext_32(HVALID) | (PHASE << 1) | (TAGOK << 3) | (ERR << 8)`. -/
def statusWord (u : GhctrUnit) : Word :=
  (flagBit u.hvalid).setWidth 32 ||| (u.phase.code.setWidth 32 <<< 1) ||| ((flagBit u.tagok).setWidth 32 <<< 3) |||
    (u.err.code.setWidth 32 <<< 8)

/-- R101, R102: a subkey may be loaded in phases `IDLE` and `DONE`. -/
def subkeyLoadable (u : GhctrUnit) : Bool := decide (u.phase = .idle) || decide (u.phase = .done)

/-- R124: a string is open while its counter is a multiple of 128 bits: no short chunk of it has been absorbed. -/
def stringOpen (bits : BitCount) : Bool := decide (bits.toNat % 128 = 0)

/-- R126, R127: `bits + 8*nb <= 2^64 - 1`. -/
def lengthFits (bits : BitCount) (nb : Count) : Bool := decide (bits.toNat + 8 * nb.toNat ≤ 2 ^ 64 - 1)

/-- R124: `GHAAD` is allowed when `PHASE = AAD` and the AAD is open. -/
def aadAllowed (u : GhctrUnit) : Bool := decide (u.phase = .aad) && stringOpen u.lena

/-- R124: a message is in progress, `PHASE` in `AAD`, `CT`. -/
def messageOpen (u : GhctrUnit) : Bool := decide (u.phase = .aad) || decide (u.phase = .ct)

/-- R124: `GHCT` is allowed when `PHASE` is `AAD` or `CT` and the ciphertext is open. -/
def ctAllowed (u : GhctrUnit) : Bool := messageOpen u && stringOpen u.lenc

/-- R124: `TAGGEN` and `TAGCMP` are allowed when `PHASE = DONE`. -/
def tagAllowed (u : GhctrUnit) : Bool := decide (u.phase = .done)

end Sys2Proof.Machine
end

