-- ==== Sys2Proof/Machine/Gf128.lean ====
section
/-! DEFINITION. The field GF(2^128) and the table multiplier (spec 40_gf128.md R90 to R98). The most significant bit of
a value is the coefficient of `x^0` (00_scope.md R6). -/

namespace Sys2Proof.Machine

/-- R91: `R = 0xE1 << 120`, what `x^128` is congruent to. -/
def reduction : Block := 0xE1#128 <<< 120

/-- R92: `mulx(V) = (V >> 1) ^ (R if V[0] = 1 else 0)`, multiplication by `x`. -/
def mulx (v : Block) : Block := (v >>> 1) ^^^ (if v.getLsbD 0 then reduction else 0)

/-- R93: the pair `(Z, V)` after the loop body has run for the powers below `i`. -/
def multiplySteps (a b : Block) : Nat → Block × Block
  | 0 => (0, b)
  | i + 1 =>
    match multiplySteps a b i with
    | (z, v) => (if a.getLsbD (127 - i) then z ^^^ v else z, mulx v)

/-- R93: `multiply(a, b)`, the field product. -/
def multiply (a b : Block) : Block := (multiplySteps a b 128).1

/-- R95: an entry of the table of `h`: the generators `M[i] = h * x^i` (R94) selected by the bits of the index, its most
significant bit the coefficient of `x^0`. -/
def tableEntry (h : Block) (n : Nibble) : Block :=
  (if n.getLsbD 3 then h else 0) ^^^ (if n.getLsbD 2 then mulx h else 0) ^^^
    (if n.getLsbD 1 then mulx (mulx h) else 0) ^^^ (if n.getLsbD 0 then mulx (mulx (mulx h)) else 0)

/-- R95: `build_table(h)`. -/
def buildTable (h : Block) : Vector Block 16 := Vector.ofFn fun n => tableEntry h (BitVec.ofFin n)

/-- R8: `TBL[n]` for a 4-bit index. -/
def lookup (t : Vector Block 16) (n : Nibble) : Block := t.get n.toFin

/-- R96: the constant table `RED4`: the low nibble `n` times `x^4`. -/
def red4 (n : Nibble) : Block := mulx (mulx (mulx (mulx (n.setWidth 128))))

/-- R96: `mulx4(Z) = (Z >> 4) ^ RED4[Z[3:0]]`, multiplication by `x^4`. -/
def mulx4 (z : Block) : Block := (z >>> 4) ^^^ red4 (z.extractLsb' 0 4)

/-- R97: `Z` after the nibbles below `k` have been consumed, the least significant first; no `mulx4` for `k = 0`
(90_conflicts.md C7). -/
def tblmulSteps (t : Vector Block 16) (x : Block) : Nat → Block
  | 0 => 0
  | k + 1 => (if k = 0 then 0 else mulx4 (tblmulSteps t x k)) ^^^ lookup t (x.extractLsb' (4 * k) 4)

/-- R97: `tblmul(t, X)`, the table-driven product. -/
def tblmul (t : Vector Block 16) (x : Block) : Block := tblmulSteps t x 32

end Sys2Proof.Machine
end

