-- ==== Sys2Proof/Machine/Operands.lean ====
section
/-! DEFINITION. Operand forms (spec 00_scope.md R5, R7; 30_encoding.md R73; 20_memory.md R55, R56): the map between byte
strings and 128-bit values, and the left-justified chunk of `NB` bytes. -/

namespace Sys2Proof.Machine

/-- R5: `byte(V, i) = (V >> (8*(15 - i))) & 0xFF`; byte 0 is the most significant. -/
def byte (v : Block) (i : Nat) : Byte := (v >>> (8 * (15 - i))).setWidth 8

/-- R5: the sixteen bytes of a value, `b[0]` first. -/
def blockBytes (v : Block) : List Byte := (List.range 16).map (byte v)

/-- R5: `value(b)`, the sum over `i < 16` of `b[i] * 2^(8*(15 - i))`, where a missing byte counts as zero: a chunk
shorter than 16 bytes comes out left-justified with zeros after it (R7, 45_gcm_sequences.md `lj`). -/
def blockOfBytes (bs : List Byte) : Block :=
  (List.range 16).foldl (fun v i => v ||| ((bs.getD i 0).setWidth 128 <<< (8 * (15 - i)))) 0

/-- R7: `mask(nb) = 2^128 - 2^(8*(16 - nb))`, ones in the first `nb` bytes. -/
def mask (nb : Nat) : Block := BitVec.ofNat 128 (2 ^ 128 - 2 ^ (8 * (16 - nb)))

/-- R7: `keep(V, nb) = V & mask(nb)`, the first `nb` bytes of `V` with zeros after them. -/
def keep (v : Block) (nb : Count) : Block := v &&& mask nb.toNat

/-- R126, R127: the number of bits a chunk of `nb` bytes adds to its length counter, `8*nb`. -/
def chunkBits (nb : Count) : BitCount := BitVec.ofNat 64 (8 * nb.toNat)

end Sys2Proof.Machine
end

