-- ==== Sys2Proof/Machine/Ops.lean ====
section
/-! DEFINITION. The named operations the commands and the host operations are made of: recording a fault and leaving the
faulted state (spec 60_exceptions.md R204, R208), the checks of a command (30_encoding.md R75), the cipher port (20_memory.md
R52), and the register reads and writes (20_memory.md R53, R54). -/

namespace Sys2Proof.Machine

/-- What a step answers. -/
abbrev Outcome := Host.Outcome State Fault Refusal

/-- R204, `raise F`: the code is recorded if no fault is, and nothing else is written. -/
def raise (e : ErrCode) (u : GhctrUnit) : GhctrUnit :=
  if u.err = .clear then { u with err := e } else u

/-- R166, R208: leave the faulted state; nothing is restored, because nothing was saved. -/
def acknowledge (u : GhctrUnit) : GhctrUnit := { u with err := .clear }

/-- `require c else raise F` (R8): on a failed check only the fault is recorded (R206). -/
def requireElse (c : Bool) (e : ErrCode) (u : GhctrUnit) (k : GhctrUnit) : GhctrUnit :=
  if c then k else raise e u

/-- R75 step 3, R205: a command other than `CLRERR` and `SRESET` runs only when the unit is not faulted; otherwise it is
refused and changes no state at all. -/
def unlessFaulted (u : GhctrUnit) (k : GhctrUnit) : GhctrUnit := if u.err = .clear then k else u

/-- The next state in which the unit has become `f` of itself; no command touches the host or the cipher. -/
def updateUnit (s : State) (f : GhctrUnit → GhctrUnit) : Outcome := .next { s with unit := f s.unit }

/-- R9, R52: the block cipher of a run: the known points where the run has them, `Config.blockCipher` elsewhere. -/
def applyCipher : List (Block × Block) → Block → Block
  | [], v => Config.blockCipher v
  | (x, y) :: rest, v => if v = x then y else applyCipher rest v

/-- R9: `E(v)` in a state. -/
def State.cipherAt (s : State) (v : Block) : Block := applyCipher s.cipher v

/-- R101, R102: `H`, `TBL` and `HVALID` are always written together. -/
def loadSubkey (h : Block) (u : GhctrUnit) : GhctrUnit := { u with h := h, tbl := buildTable h, hvalid := true }

/-- R123: one GHASH step taken through the table, `Y <- tblmul(TBL, Y ^ B)`. -/
def absorb (b : Block) (u : GhctrUnit) : GhctrUnit := { u with y := tblmul u.tbl (u.y ^^^ b) }

/-- R53: `RD(r)`: the unit after the read, and the value returned. -/
def readReg (r : Reg) (u : GhctrUnit) : GhctrUnit × PortValue :=
  match r with
  | .status => (u, .bits32 (statusWord u))
  | .opa => (u, .bits128 u.opa)
  | .opb => (u, .bits128 u.opb)
  | .res => (u, .bits128 u.res)
  | .y => (u, .bits128 u.y)
  | .cb => (u, .bits128 u.cb)
  | .lena => (u, .bits64 u.lena)
  | .lenc => (u, .bits64 u.lenc)
  | .cmd | .unmapped _ => (raise .access u, .zero)

/-- R54: `WR(r, v)` to a register other than `CMD`, whose write runs a command and stores nothing. -/
def writeReg (w : RegWrite) (u : GhctrUnit) : GhctrUnit :=
  match w with
  | .opa v => { u with opa := v }
  | .opb v => { u with opb := v }
  | .cb v => { u with cb := v }
  | .cmd _ => u
  | .status _ | .res _ | .y _ | .lena _ | .lenc _ | .unmapped _ => raise .access u

/-- R40, R230: hardware reset and `SRESET`; `E` is unchanged (R231), and so is the host (R39). -/
def resetUnit (s : State) : State := { s with unit := GhctrUnit.reset }

end Sys2Proof.Machine
end

