-- ==== Sys2Proof/Machine/Control.lean ====
section
/-! DEFINITION. The control commands (spec 44_control.md): `NOP`, `CLRERR`, `SRESET`. -/

namespace Sys2Proof.Machine

/-- R165: no state change; refusing it in the faulted state is the same as running it. -/
def execNop (s : State) : Outcome := updateUnit s fun u => u

/-- R166: `STATUS.ERR <- 0`, in the faulted state too. -/
def execClrerr (s : State) : Outcome := updateUnit s acknowledge

/-- R167: every component takes its reset value, in the faulted state too. -/
def execSreset (s : State) : Outcome := .next (resetUnit s)

end Sys2Proof.Machine
end

