-- ==== Sys2Proof/Machine/Ghash.lean ====
section
/-! DEFINITION. The GHASH function (spec 41_ghash.md R120 to R123) and its commands `GHINIT`, `GHAAD`, `GHCT`, `GHLEN`. -/

namespace Sys2Proof.Machine

/-- The consecutive 16-byte pieces of a byte string, the last possibly shorter; none when it is empty (R121,
45_gcm_sequences.md `chunks`). -/
def chunks (d : List Byte) : List (List Byte) :=
  (List.range ((d.length + 15) / 16)).map fun j => (d.drop (16 * j)).take 16

/-- R121: `pad_blocks(D)`: each piece with zero bytes after it up to 16. -/
def padBlocks (d : List Byte) : List Block := (chunks d).map blockOfBytes

/-- R122: `len_block(la, lc) = (la << 64) | lc`. -/
def lenBlock (la lc : BitCount) : Block := (la.setWidth 128 <<< 64) ||| lc.setWidth 128

/-- R123: `ghash_step(H, Y, B) = multiply(Y ^ B, H)`. -/
def ghashStep (h y b : Block) : Block := multiply (y ^^^ b) h

/-- R120: the accumulator after a list of blocks. -/
def ghashBlocks (h : Block) (y : Block) (bs : List Block) : Block := bs.foldl (ghashStep h) y

/-- R120: the length of a byte string in bits, as a field of the length block. Exact below 2^64 bits, the range of
R122; `messageLengthBlock` does not use it beyond (assumption log 10). -/
def bitLength (d : List Byte) : BitCount := BitVec.ofNat 64 (8 * d.length)

/-- R120, R122: the length block of two byte strings. DESIGN CHOICE: where a length does not fit its field the spec gives
no block, and the model has a free value (assumption log 10). -/
def messageLengthBlock (a c : List Byte) : Block :=
  if 8 * a.length < 2 ^ 64 ∧ 8 * c.length < 2 ^ 64 then lenBlock (bitLength a) (bitLength c)
  else Config.overlongLengthBlock (8 * a.length) (8 * c.length)

/-- R120: `GHASH(H, A, C)`. -/
def ghash (h : Block) (a c : List Byte) : Block :=
  ghashStep h (ghashBlocks h (ghashBlocks h 0 (padBlocks a)) (padBlocks c)) (messageLengthBlock a c)

/-- R125: begin a message. -/
def execGhinit (s : State) : Outcome :=
  updateUnit s fun u => unlessFaulted u { u with y := 0, lena := 0, lenc := 0, phase := .aad, tagok := false }

/-- R126: absorb one chunk of AAD. -/
def execGhaad (nb : Count) (s : State) : Outcome :=
  updateUnit s fun u => unlessFaulted u <| requireElse (countLegal nb) .nb u <| requireElse u.hvalid .noh u <|
    requireElse (aadAllowed u) .seq u <| requireElse (lengthFits u.lena nb) .len u
      { absorb (keep u.opa nb) u with lena := u.lena + chunkBits nb }

/-- R127: absorb one chunk of ciphertext. -/
def execGhct (nb : Count) (s : State) : Outcome :=
  updateUnit s fun u => unlessFaulted u <| requireElse (countLegal nb) .nb u <| requireElse u.hvalid .noh u <|
    requireElse (ctAllowed u) .seq u <| requireElse (lengthFits u.lenc nb) .len u
      { absorb (keep u.opa nb) u with lenc := u.lenc + chunkBits nb, phase := .ct }

/-- R128: absorb the length block and finish. -/
def execGhlen (s : State) : Outcome :=
  updateUnit s fun u => unlessFaulted u <| requireElse u.hvalid .noh u <| requireElse (messageOpen u) .seq u
    { absorb (lenBlock u.lena u.lenc) u with phase := .done }

end Sys2Proof.Machine
end

