-- ==== Sys2Proof/Machine/Ctr.lean ====
section
/-! DEFINITION. Counter mode (spec 42_ctr.md): `inc32`, `encrypt_ctr` and the commands `INC32`, `CTRXOR`. -/

namespace Sys2Proof.Machine

/-- R141: `inc32(V) = V[127:32] || ((V[31:0] + 1) mod 2^32)`. -/
def inc32 (v : Block) : Block := v.extractLsb' 32 96 ++ (v.extractLsb' 0 32 + 1)

/-- R142: the pieces of the data XORed with the first bytes of successive keystream blocks. -/
def ctrPieces (e : Block → Block) (counter : Block) : List (List Byte) → List Byte
  | [] => []
  | c :: rest => List.zipWith (· ^^^ ·) c (blockBytes (e counter)) ++ ctrPieces e (inc32 counter) rest

/-- R142: `encrypt_ctr(S, D)` under the block cipher `e`. -/
def encryptCtr (e : Block → Block) (start : Block) (d : List Byte) : List Byte := ctrPieces e start (chunks d)

/-- R145: `CB <- inc32(CB)`. -/
def execInc32 (s : State) : Outcome :=
  updateUnit s fun u => unlessFaulted u { u with cb := inc32 u.cb }

/-- R146: `RES <- keep(OPA ^ E(CB), nb) ; CB <- inc32(CB)`. -/
def execCtrxor (nb : Count) (s : State) : Outcome :=
  updateUnit s fun u => unlessFaulted u <| requireElse (countLegal nb) .nb u
    { u with res := keep (u.opa ^^^ s.cipherAt u.cb) nb, cb := inc32 u.cb }

end Sys2Proof.Machine
end

