-- ==== Sys2Proof/Machine/Field.lean ====
section
/-! DEFINITION. The commands of spec 40_gf128.md: `GFMUL`, `HLOAD`, `HKEY`, `HMUL`. -/

namespace Sys2Proof.Machine

/-- R100: `RES <- multiply(OPA, OPB)`. -/
def execGfmul (s : State) : Outcome :=
  updateUnit s fun u => unlessFaulted u { u with res := multiply u.opa u.opb }

/-- R101: in phase `IDLE` or `DONE`, `H <- OPA ; TBL <- build_table(OPA) ; HVALID <- 1`. -/
def execHload (s : State) : Outcome :=
  updateUnit s fun u => unlessFaulted u <| requireElse (subkeyLoadable u) .seq u <| loadSubkey u.opa u

/-- R102: as `HLOAD`, with `h = E(0)` instead of `OPA`. -/
def execHkey (s : State) : Outcome :=
  updateUnit s fun u => unlessFaulted u <| requireElse (subkeyLoadable u) .seq u <| loadSubkey (s.cipherAt 0) u

/-- R103: `RES <- tblmul(TBL, OPA)`. -/
def execHmul (s : State) : Outcome :=
  updateUnit s fun u => unlessFaulted u <| requireElse u.hvalid .noh u { u with res := tblmul u.tbl u.opa }

end Sys2Proof.Machine
end

