-- ==== Sys2Proof/Machine/Tag.lean ====
section
/-! DEFINITION. The tag and its comparison (spec 43_tag.md): the commands `TAGGEN`, `TAGCMP`. -/

namespace Sys2Proof.Machine

/-- R155: `tag = GHASH(H, A, C) ^ E(J0)`. -/
def gcmTag (e : Block → Block) (h j0 : Block) (a c : List Byte) : Block := ghash h a c ^^^ e j0

/-- R156: the OR of the bytes of the difference below `n`. -/
def differenceBytes (d : Block) : Nat → Byte
  | 0 => 0
  | n + 1 => differenceBytes d n ||| byte d n

/-- R156: `tag_equal(t, t')`: XOR, then OR over all sixteen bytes, then compare with zero. -/
def tagEqual (t t' : Block) : Bool := decide (differenceBytes (t ^^^ t') 16 = 0)

/-- R157: `RES <- Y ^ E(CB)`. -/
def execTaggen (s : State) : Outcome :=
  updateUnit s fun u => unlessFaulted u <| requireElse u.hvalid .noh u <| requireElse (tagAllowed u) .seq u
    { u with res := u.y ^^^ s.cipherAt u.cb }

/-- R158: `RES <- 0`, and either `TAGOK <- 1`, or `TAGOK <- 0` and the fault `ERR_AUTH`, the one fault that comes with
other writes (R206). -/
def execTagcmp (s : State) : Outcome :=
  updateUnit s fun u => unlessFaulted u <| requireElse u.hvalid .noh u <| requireElse (tagAllowed u) .seq u <|
    if tagEqual u.opa (u.y ^^^ s.cipherAt u.cb) then { u with res := 0, tagok := true }
    else raise .auth { u with res := 0, tagok := false }

end Sys2Proof.Machine
end

