-- ==== Sys2Proof/Machine/Dispatch.lean ====
section
/-! DEFINITION. One arm per command, each a direct call of its meaning. -/

namespace Sys2Proof.Machine

def exec (i : Instr) (s : State) : Host.Outcome State Fault Refusal :=
  match i with
  | .nop => Sys2Proof.Machine.execNop s
  | .gfmul => Sys2Proof.Machine.execGfmul s
  | .hload => Sys2Proof.Machine.execHload s
  | .hkey => Sys2Proof.Machine.execHkey s
  | .hmul => Sys2Proof.Machine.execHmul s
  | .ghinit => Sys2Proof.Machine.execGhinit s
  | .ghaad nb => Sys2Proof.Machine.execGhaad nb s
  | .ghct nb => Sys2Proof.Machine.execGhct nb s
  | .ghlen => Sys2Proof.Machine.execGhlen s
  | .inc32 => Sys2Proof.Machine.execInc32 s
  | .ctrxor nb => Sys2Proof.Machine.execCtrxor nb s
  | .taggen => Sys2Proof.Machine.execTaggen s
  | .tagcmp => Sys2Proof.Machine.execTagcmp s
  | .clrerr => Sys2Proof.Machine.execClrerr s
  | .sreset => Sys2Proof.Machine.execSreset s

end Sys2Proof.Machine
end

