-- ==== Sys2Proof/Machine/Execute.lean ====
section
/-! DEFINITION. What a host operation and a hardware reset do (spec 30_encoding.md R75; 20_memory.md R53, R54; 70_reset_and_hazards.md
R230), and where the next command word comes from (10_state.md R24). -/

namespace Sys2Proof.Machine

/-- R75: `execute(w)`, the steps in the rule's order. Steps 5 to 7 are the command's own meaning. -/
def executeWord (w : Word) (s : State) : Outcome :=
  if w = 0x0000007F then exec .sreset s
  else if w = 0x0000007E then exec .clrerr s
  else if s.unit.err ≠ .clear then .next s
  else
    match decode w with
    | .ok i => exec i s
    | .error _ => updateUnit s (raise .opcode)

/-- R53: a read, and what it returns. -/
def readOp (r : Reg) (s : State) : State × PortValue :=
  match readReg r s.unit with
  | (u, v) => ({ s with unit := u, replies := s.replies ++ [v] }, v)

/-- R10, R53, R54: one host operation, whole. -/
def performOp (o : HostOp) (s : State) : Outcome :=
  match o with
  | .read r => .next (readOp r s).1
  | .write (.cmd w) => executeWord w s
  | .write w => updateUnit s (writeReg w)

/-- R10, R230: what the unit does on one input. -/
def acceptInput (i : Input) (s : State) : Outcome :=
  match i with
  | .op o => performOp o s
  | .hardwareReset => .next (resetUnit s)

/-- The input that writes a command word (R25): how a word comes to be run. -/
def commandInput (w : Word) : Input := .op (.write (.cmd w))

/-- The word of `nbits` bits, the bits above zero, as an input. -/
def tableInput (nbits w : Nat) : Input := commandInput (BitVec.ofNat 32 (w % 2 ^ nbits))

/-- R10: one step takes the next input and answers it; with no input the unit does not change. -/
def stepInput (s : State) : Outcome :=
  match s.inputs with
  | [] => .next s
  | i :: rest => acceptInput i { s with inputs := rest }

end Sys2Proof.Machine
end

