-- ==== Sys2Proof/Machine/Step.lean ====
section
/-! DEFINITION. One step of the machine (spec 00_scope.md R10): one host operation or one hardware reset, whole. -/

namespace Sys2Proof.Machine

/-- R10: the unit takes one step per host operation and never acts on its own. -/
def step (s : State) : Host.Outcome State Fault Refusal := stepInput s

/-- The state whose next input is the write of the given word to `CMD` (R24, R25): the unit fetches nothing, a command
word arrives as a host write. Everything else is as it was. Assumption log 2. -/
def State.withFetchWord (s : State) (nbits w : Nat) : State := { s with inputs := tableInput nbits w :: s.inputs }

end Sys2Proof.Machine
end

