-- ==== Sys2Proof/Machine/Sequencer.lean ====
section
/-! DEFINITION. The host as the document's `GCMEngine` (spec 45_gcm_sequences.md R175 to R191, 30_encoding.md R78): the
four pseudo-instructions as sequences of host operations, the record format, and the host's own errors. The unit's
`step` does not use this file. -/

namespace Sys2Proof.Machine

/-- R191: the document's four error kinds. -/
inductive HostError where
  /-- Raised by the block cipher at construction (R177). -/
  | invalidKeyLength
  /-- R183: the nonce is not 12 bytes. -/
  | invalidNonceLength
  /-- R184: the record is shorter than 28 bytes. -/
  | dataTooShort
  /-- R185: the tag does not match. -/
  | authenticationError
  deriving DecidableEq, Repr

/-- Go on with what a host operation answered; stop where it stopped. -/
def andThen {α β : Type} (o : Host.Outcome α Fault Refusal) (k : α → Host.Outcome β Fault Refusal) :
    Host.Outcome β Fault Refusal :=
  match o with
  | .next a => k a
  | .fault r => .fault r
  | .refused r => .refused r

/-- R10, R60: the host issues operations one after another, each after the previous one has finished. -/
def issue : List HostOp → State → Outcome
  | [], s => .next s
  | o :: rest, s => andThen (performOp o s) (issue rest)

/-- R77: the write that issues a command. -/
def commandOp (i : Instr) : HostOp := .write (.cmd (encode i))

/-- R178, R179: hand a piece of data to a format-N command: `wr OPA, lj(c) ; <command> length(c)`. -/
def chunkOps (cmd : Count → Instr) (c : List Byte) : List HostOp :=
  [.write (.opa (blockOfBytes c)), commandOp (cmd (BitVec.ofNat 5 c.length))]

/-- R178: `ghash.msg A, C`. -/
def ghashMsg (a c : List Byte) : List HostOp :=
  [commandOp .ghinit] ++ (chunks a).flatMap (chunkOps .ghaad) ++ (chunks c).flatMap (chunkOps .ghct) ++
    [commandOp .ghlen]

/-- R179, `first(v, n)`: the first `n` bytes of a 128-bit value read. -/
def firstBytes (v : PortValue) (n : Nat) : List Byte := (blockBytes (BitVec.ofNat 128 v.toNat)).take n

/-- R179: for each piece, `wr OPA, lj(c) ; ctrxor length(c) ; rd RES`, collecting the bytes read. -/
def ctrPass : List (List Byte) → State → Host.Outcome (State × List Byte) Fault Refusal
  | [], s => .next (s, [])
  | c :: rest, s =>
    andThen (issue (chunkOps .ctrxor c) s) fun s1 =>
      match readOp .res s1 with
      | (s2, v) => andThen (ctrPass rest s2) fun r => .next (r.1, firstBytes v c.length ++ r.2)

/-- R179: `ctr.data S, D`. -/
def ctrData (start : Block) (d : List Byte) (s : State) : Host.Outcome (State × List Byte) Fault Refusal :=
  andThen (performOp (.write (.cb start)) s) (ctrPass (chunks d))

/-- R176: `J0 = N || 00 00 00 01`. -/
def preCounter (nonce : List Byte) : Block := blockOfBytes (nonce ++ [0, 0, 0, 1])

/-- R177: engine construction. The block cipher checks the key's length and keeps the key; the unit then derives the
subkey, once. DESIGN CHOICE: the rule gives no answer for a unit that does not perform the `hkey` (faulted, or in phase
`AAD` or `CT`); the host of the model does not read `STATUS` and answers ok there too (assumption log 11). -/
def engineConstruct (key : List Byte) (s : State) : Host.Outcome (State × Except HostError PUnit) Fault Refusal :=
  if key.length = 16 ∨ key.length = 24 ∨ key.length = 32 then
    andThen (issue [commandOp .hkey] s) fun s1 => .next (s1, .ok ⟨⟩)
  else .next (s, .error .invalidKeyLength)

/-- R181: `gcm.enc N, P, A`, giving the record `N || c || tag` (R180). -/
def gcmEnc (n p a : List Byte) (s : State) : Host.Outcome (State × Except HostError (List Byte)) Fault Refusal :=
  if n.length = 12 then
    andThen (ctrData (inc32 (preCounter n)) p s) fun r =>
      andThen (issue (ghashMsg a r.2 ++ [.write (.cb (preCounter n)), commandOp .taggen]) r.1) fun s2 =>
        match readOp .res s2 with
        | (s3, t) => .next (s3, .ok (n ++ r.2 ++ firstBytes t 16))
  else .next (s, .error .invalidNonceLength)

/-- R180: the nonce of a record, its first 12 bytes. -/
def recordNonce (record : List Byte) : List Byte := record.take 12

/-- R180: the tag of a record, its last 16 bytes. -/
def recordTag (record : List Byte) : List Byte := record.drop (record.length - 16)

/-- R180: the ciphertext of a record, what stands between. -/
def recordCiphertext (record : List Byte) : List Byte := (record.drop 12).take (record.length - 28)

/-- R182 step 5: the status read after `tagcmp` tells the host to reject: `ERR = ERR_AUTH`, or `TAGOK = 0`, which the
rule calls equivalent; the host rejects on either (assumption log 9). -/
def rejects (v : PortValue) : Bool := decide ((v.toNat / 2 ^ 8) % 16 = 6) || decide ((v.toNat / 2 ^ 3) % 2 = 0)

/-- R182: `gcm.dec REC, A`. No `ctrxor` on the ciphertext is issued before `tagcmp` has reported a match. -/
def gcmDec (record a : List Byte) (s : State) : Host.Outcome (State × Except HostError (List Byte)) Fault Refusal :=
  if record.length < 28 then .next (s, .error .dataTooShort)
  else
    andThen (issue (ghashMsg a (recordCiphertext record) ++
        [.write (.cb (preCounter (recordNonce record))), .write (.opa (blockOfBytes (recordTag record))),
          commandOp .tagcmp]) s) fun s1 =>
      match readOp .status s1 with
      | (s2, v) =>
        if rejects v then andThen (issue [commandOp .clrerr] s2) fun s3 => .next (s3, .error .authenticationError)
        else andThen (ctrData (inc32 (preCounter (recordNonce record))) (recordCiphertext record) s2) fun r =>
          .next (r.1, .ok r.2)

end Sys2Proof.Machine
end

