-- ==== Sys2Proof/Safety.lean ====
section
/-! DEFINITION. What holds of every state a run can reach, in the terms the statements use: the table invariant (spec
10_state.md R34), the consistency of the flags and counters (R29, R37, 43_tag.md R158), and the accumulator as the hash of
the very message absorbed so far (41_ghash.md R129). -/

namespace Sys2Proof.Machine

/-- A step stops the machine. -/
def Stops (o : Outcome) : Prop := ∀ t, o ≠ .next t

/-- R34: `TBL = build_table(H)`. -/
def TableMatches (u : GhctrUnit) : Prop := u.tbl = buildTable u.h

/-- R37: each counter is a multiple of 8. -/
def CountersWhole (u : GhctrUnit) : Prop := u.lena.toNat % 8 = 0 ∧ u.lenc.toNat % 8 = 0

/-- R28, R29: no subkey and no ciphertext before there can be one. -/
structure PhaseConsistent (u : GhctrUnit) : Prop where
  idle_empty : u.phase = .idle → u.y = 0 ∧ u.lena = 0 ∧ u.lenc = 0
  aad_no_ciphertext : u.phase = .aad → u.lenc = 0
  ct_some_ciphertext : u.phase = .ct → u.lenc ≠ 0
  keyless_empty : u.hvalid = false → u.h = 0 ∧ u.y = 0 ∧ u.lena = 0 ∧ u.lenc = 0
  keyless_phase : u.hvalid = false → u.phase = .idle ∨ u.phase = .aad

/-- R30, R158: a reported match stands only in `DONE` under a loaded subkey; after a mismatch, and until it is
acknowledged, no match is reported and `RES` holds nothing. -/
structure TagConsistent (u : GhctrUnit) : Prop where
  match_done : u.tagok = true → u.phase = .done ∧ u.hvalid = true
  rejected : u.err = .auth → u.tagok = false ∧ u.res = 0 ∧ u.phase = .done ∧ u.hvalid = true

/-- What every reachable state of the unit satisfies. -/
structure UnitInvariant (u : GhctrUnit) : Prop where
  table : TableMatches u
  counters : CountersWhole u
  phases : PhaseConsistent u
  tags : TagConsistent u

/-- What has been absorbed since `GHINIT`: the AAD and the ciphertext, and the subkey they are hashed under. A record of
the past, which the unit does not keep. -/
structure Message where
  key : Block
  aad : List Byte
  ciphertext : List Byte
  deriving DecidableEq, Repr

/-- No message, under the subkey `h`. -/
def Message.empty (h : Block) : Message := ⟨h, [], []⟩

/-- R125 to R128, 20_memory.md R56: what a command that completes adds to the message: `GHINIT` begins one, `GHAAD nb`
and `GHCT nb` append the first `nb` bytes of `OPA` to their string, and no other command appends anything. -/
def Message.absorb (m : Message) (i : Instr) (u : GhctrUnit) : Message :=
  match i with
  | .ghinit => Message.empty u.h
  | .ghaad nb => { m with aad := m.aad ++ (blockBytes u.opa).take nb.toNat }
  | .ghct nb => { m with ciphertext := m.ciphertext ++ (blockBytes u.opa).take nb.toNat }
  | .nop | .gfmul | .hload | .hkey | .hmul | .ghlen | .inc32 | .ctrxor _ | .taggen | .tagcmp | .clrerr | .sreset => m

/-- The message after a step from `s` to `t`: a reset forgets it; a command that completes (the unit is not faulted
before it nor after it) adds its chunk; nothing else touches it. -/
def Message.after (m : Message) (s t : State) : Message :=
  match s.inputs with
  | .hardwareReset :: _ => Message.empty 0
  | .op (.write (.cmd w)) :: _ =>
    match decode w with
    | .ok i =>
      if i = .sreset then Message.empty 0
      else if s.unit.err = .clear ∧ t.unit.err = .clear then m.absorb i s.unit
      else m
    | .error _ => m
  | _ => m

/-- R29, R35, R37, R120, R129: the accumulator, the counters and the phase are those of this message, under the loaded
subkey while the message is open, and under the subkey it was absorbed under once it is done. -/
structure AccumulatorOfMessage (m : Message) (u : GhctrUnit) : Prop where
  aad_fits : 8 * m.aad.length < 2 ^ 64
  ciphertext_fits : 8 * m.ciphertext.length < 2 ^ 64
  aad_counted : u.lena = bitLength m.aad
  ciphertext_counted : u.lenc = bitLength m.ciphertext
  accumulated : match u.phase with
    | .idle => m.aad = [] ∧ m.ciphertext = [] ∧ u.y = 0
    | .aad => m.key = u.h ∧ m.ciphertext = [] ∧ u.y = ghashBlocks m.key 0 (padBlocks m.aad)
    | .ct => m.key = u.h ∧ m.ciphertext ≠ [] ∧
        u.y = ghashBlocks m.key (ghashBlocks m.key 0 (padBlocks m.aad)) (padBlocks m.ciphertext)
    | .done => u.y = ghash m.key m.aad m.ciphertext

/-- R175: the engine state `Ready`: a subkey is loaded, it is `E(0)` (R177), and the unit is not faulted. -/
structure Ready (s : State) : Prop where
  keyed : s.unit.hvalid = true
  subkey : s.unit.h = s.cipherAt 0
  table : TableMatches s.unit
  sound : s.unit.err = .clear

end Sys2Proof.Machine
end

