-- ==== Sys2Proof/Certificates/Slice0/Obligations.lean ====
section
/-! DEFINITION. What is claimed of the unit, rule by rule, for the provers. -/

namespace Sys2Proof.Statements

open Sys2Proof.Machine

/-- 40_gf128.md R99: the multiplicative identity, the polynomial 1. -/
def one : Block := 0x80000000000000000000000000000000

/-- 40_gf128.md R99: the polynomial `x`. -/
def polyX : Block := 0x40000000000000000000000000000000

/-- The subkey of the document's vectors (95_test_vectors.md table E0). -/
def nistH : Block := 0x66e94bd4ef8a2c3b884cfa59ca342b2e

/-- 00_scope.md R6: the element a value stands for; bit `127 - i` is the coefficient of `x^i`. -/
noncomputable def toPoly (v : Block) : Polynomial (ZMod 2) :=
  ∑ i ∈ Finset.range 128, if v.getLsbD (127 - i) then Polynomial.X ^ i else 0

/-- 40_gf128.md R90: `x^128 + x^7 + x^2 + x + 1`. -/
noncomputable def fieldPoly : Polynomial (ZMod 2) :=
  Polynomial.X ^ 128 + Polynomial.X ^ 7 + Polynomial.X ^ 2 + Polynomial.X + 1

/-- 30_encoding.md R74: the 15 opcodes. -/
def opcodes : List (BitVec 8) :=
  [0x00, 0x01, 0x02, 0x03, 0x04, 0x10, 0x11, 0x12, 0x13, 0x20, 0x21, 0x30, 0x31, 0x7E, 0x7F]

/-- 30_encoding.md R72: the opcodes of the format-N commands `GHAAD`, `GHCT`, `CTRXOR`. -/
def formatNOpcodes : List (BitVec 8) := [0x11, 0x12, 0x21]

/-- 30_encoding.md R75 step 4: what makes a word `ERR_OPCODE`. -/
def BadOpcode (w : Word) : Prop :=
  opcodeField w ∉ opcodes ∨ reservedField w ≠ 0 ∨ (opcodeField w ∉ formatNOpcodes ∧ countField w ≠ 0)

/-- 30_encoding.md R75 step 5: what makes a word `ERR_NB`. -/
def BadCount (w : Word) : Prop :=
  opcodeField w ∈ formatNOpcodes ∧ ((countField w).toNat = 0 ∨ 16 < (countField w).toNat)

/-- 30_encoding.md R75 step 6, 10_state.md R28: the opcodes of the commands that need a loaded subkey, `HMUL`, `GHAAD`,
`GHCT`, `GHLEN`, `TAGGEN`, `TAGCMP`. -/
def subkeyOpcodes : List (BitVec 8) := [0x04, 0x11, 0x12, 0x13, 0x30, 0x31]

/-- 60_exceptions.md R201: when a word raises `ERR_SEQ`, from the phase and the short-chunk rule of 41_ghash.md R124. -/
def BadSequence (w : Word) (u : GhctrUnit) : Prop :=
  (opcodeField w ∈ [0x02#8, 0x03#8] ∧ u.phase ≠ .idle ∧ u.phase ≠ .done) ∨
  (opcodeField w = 0x11#8 ∧ ¬ (u.phase = .aad ∧ u.lena.toNat % 128 = 0)) ∨
  (opcodeField w = 0x12#8 ∧ ¬ ((u.phase = .aad ∨ u.phase = .ct) ∧ u.lenc.toNat % 128 = 0)) ∨
  (opcodeField w = 0x13#8 ∧ u.phase ≠ .aad ∧ u.phase ≠ .ct) ∨
  (opcodeField w ∈ [0x30#8, 0x31#8] ∧ u.phase ≠ .done)

/-- 60_exceptions.md R201: when a word raises `ERR_LEN`. -/
def BadLength (w : Word) (u : GhctrUnit) : Prop :=
  (opcodeField w = 0x11#8 ∧ 2 ^ 64 - 1 < u.lena.toNat + 8 * (countField w).toNat) ∨
  (opcodeField w = 0x12#8 ∧ 2 ^ 64 - 1 < u.lenc.toNat + 8 * (countField w).toNat)

/-- 60_exceptions.md R201: when a word raises `ERR_AUTH`: `TAGCMP` with a tag that is not `Y ^ E(CB)`. -/
def BadTag (w : Word) (s : State) : Prop :=
  opcodeField w = 0x31#8 ∧ s.unit.opa ≠ s.unit.y ^^^ s.cipherAt s.unit.cb

/-- 43_tag.md R159: two byte strings of one length that differ, and only within one 16-byte block. -/
def DifferInOneBlock (d d' : List Byte) : Prop :=
  d.length = d'.length ∧ d ≠ d' ∧ ∃ k : Nat, ∀ j : Nat, j / 16 ≠ k → d.getD j 0 = d'.getD j 0

/-- 95_test_vectors.md T-SRC-3: the bytes of "Hello GCM". -/
def helloGcm : List Byte := [0x48, 0x65, 0x6c, 0x6c, 0x6f, 0x20, 0x47, 0x43, 0x4d]

/-- 95_test_vectors.md T-SRC-3: the bytes of "ctx". -/
def ctx : List Byte := [0x63, 0x74, 0x78]

/-- 95_test_vectors.md T-SRC-3: the bytes of "wrong". -/
def wrong : List Byte := [0x77, 0x72, 0x6f, 0x6e, 0x67]

end Sys2Proof.Statements

section
open Sys2Proof Sys2Proof.Machine Sys2Proof.Statements

/-! ### Encoding and dispatch (30_encoding.md) -/

/-- R71, R72, R74: the words the decoder accepts are exactly the words of the encoder, each for its own command, with
every value of the `NB` field. -/
def Obligations.DecodeInvertsEncode : Prop :=
  ∀ (w : Word) (i : Instr), decode w = .ok i ↔ w = encode i

/-- R74: each row of the opcode map, `w & mask = match`, with its literals. -/
def Obligations.WordsAreSelectedByMatchAndMask : Prop :=
  ∀ w : Word,
    (decode w = .ok .nop ↔ w &&& 0xFFFFFFFF = 0x00000000) ∧
    (decode w = .ok .gfmul ↔ w &&& 0xFFFFFFFF = 0x00000001) ∧
    (decode w = .ok .hload ↔ w &&& 0xFFFFFFFF = 0x00000002) ∧
    (decode w = .ok .hkey ↔ w &&& 0xFFFFFFFF = 0x00000003) ∧
    (decode w = .ok .hmul ↔ w &&& 0xFFFFFFFF = 0x00000004) ∧
    (decode w = .ok .ghinit ↔ w &&& 0xFFFFFFFF = 0x00000010) ∧
    (∀ nb, decode w = .ok (.ghaad nb) ↔ w &&& 0xFFFFE0FF = 0x00000011 ∧ w.extractLsb' 8 5 = nb) ∧
    (∀ nb, decode w = .ok (.ghct nb) ↔ w &&& 0xFFFFE0FF = 0x00000012 ∧ w.extractLsb' 8 5 = nb) ∧
    (decode w = .ok .ghlen ↔ w &&& 0xFFFFFFFF = 0x00000013) ∧
    (decode w = .ok .inc32 ↔ w &&& 0xFFFFFFFF = 0x00000020) ∧
    (∀ nb, decode w = .ok (.ctrxor nb) ↔ w &&& 0xFFFFE0FF = 0x00000021 ∧ w.extractLsb' 8 5 = nb) ∧
    (decode w = .ok .taggen ↔ w &&& 0xFFFFFFFF = 0x00000030) ∧
    (decode w = .ok .tagcmp ↔ w &&& 0xFFFFFFFF = 0x00000031) ∧
    (decode w = .ok .clrerr ↔ w &&& 0xFFFFFFFF = 0x0000007E) ∧
    (decode w = .ok .sreset ↔ w &&& 0xFFFFFFFF = 0x0000007F) ∧
    (opcodeField w ∉ opcodes → ∀ i, decode w ≠ .ok i)

/-- Words written out from R71 and R74, one of each family, decode to their commands (95_test_vectors.md programs). -/
def Obligations.WrittenOutWordsDecode : Prop :=
  decode 0x00000000 = .ok .nop ∧ decode 0x00000001 = .ok .gfmul ∧ decode 0x00000003 = .ok .hkey ∧
  decode 0x00000010 = .ok .ghinit ∧ decode 0x00000311 = .ok (.ghaad 3) ∧ decode 0x00001012 = .ok (.ghct 16) ∧
  decode 0x00000521 = .ok (.ctrxor 5) ∧ decode 0x00000031 = .ok .tagcmp ∧ decode 0x0000007E = .ok .clrerr ∧
  decode 0x0000017E = .error .countInFormatZ ∧ decode 0x0000207F = .error .reservedBitsSet ∧
  decode 0x00000005 = .error .unknownOpcode

/-- R75: the steps of `execute(w)`, in their order. -/
def Obligations.CommandWordsAreDispatchedInOrder : Prop :=
  ∀ (w : Word) (s : State),
    (w = 0x0000007F → executeWord w s = exec .sreset s) ∧
    (w = 0x0000007E → executeWord w s = exec .clrerr s) ∧
    (w ≠ 0x0000007F → w ≠ 0x0000007E → s.unit.err ≠ .clear → executeWord w s = .next s) ∧
    (s.unit.err = .clear → BadOpcode w →
      executeWord w s = .next { s with unit := { s.unit with err := .opcode } }) ∧
    (s.unit.err = .clear → ¬ BadOpcode w → BadCount w →
      executeWord w s = .next { s with unit := { s.unit with err := .nb } }) ∧
    (s.unit.err = .clear → ¬ BadOpcode w → ¬ BadCount w → opcodeField w ∈ subkeyOpcodes → s.unit.hvalid = false →
      executeWord w s = .next { s with unit := { s.unit with err := .noh } }) ∧
    (s.unit.err = .clear → ¬ BadOpcode w → ¬ BadCount w → (opcodeField w ∈ subkeyOpcodes → s.unit.hvalid = true) →
      ∃ i, decode w = .ok i ∧ i.wellFormed = true ∧ executeWord w s = exec i s)

/-- R76: every word that is not one of the 60 legal ones is illegal and raises its fault; only the word 0 does nothing;
in the faulted state a word is not examined. -/
def Obligations.IllegalWordsRaiseTheirFault : Prop :=
  (∀ (w : Word) (s : State), s.unit.err = .clear →
    (opcodeField w ∉ opcodes →
      executeWord w s = .next { s with unit := { s.unit with err := .opcode } }) ∧
    (reservedField w ≠ 0 →
      executeWord w s = .next { s with unit := { s.unit with err := .opcode } }) ∧
    (opcodeField w ∈ opcodes → opcodeField w ∉ formatNOpcodes → countField w ≠ 0 →
      executeWord w s = .next { s with unit := { s.unit with err := .opcode } }) ∧
    (opcodeField w ∈ formatNOpcodes → reservedField w = 0 → (countField w = 0 ∨ 17 ≤ (countField w).toNat) →
      executeWord w s = .next { s with unit := { s.unit with err := .nb } })) ∧
  opcodes.Nodup ∧ 256 - opcodes.length = 241 ∧
  (∃ legal : List Word, legal.Nodup ∧ legal.length = 12 + 3 * 16 ∧ legal.length = 60 ∧
    ∀ w, w ∈ legal ↔ ∃ i : Instr, i.wellFormed = true ∧ w = encode i) ∧
  (∀ s, executeWord 0 s = .next s) ∧
  (∀ w : Word, w ≠ 0 → ∃ s, executeWord w s ≠ .next s) ∧
  (∀ (w : Word) (s : State), s.unit.err ≠ .clear → w ≠ 0x0000007E → w ≠ 0x0000007F → executeWord w s = .next s)

/-- A step whose next input writes the word of a command to `CMD` is that command's meaning, on the state in which the
input has been taken; nothing else happens around it. -/
def Obligations.StepRunsTheDecodedCommand : Prop :=
  ∀ (s : State) (w : Word) (i : Instr) (rest : List Input),
    s.inputs = .op (.write (.cmd w)) :: rest → decode w = .ok i → step s = exec i { s with inputs := rest }

/-! ### Host operations and steps (20_memory.md, 10_state.md) -/

/-- R53: `RD(r)`, by register number. -/
def Obligations.ReadReturnsTheRegister : Prop :=
  ∀ s : State,
    (∀ (r : Reg) (v : PortValue),
      (r.number = 0x1 ∧ v = .bits32 (statusWord s.unit)) ∨ (r.number = 0x2 ∧ v = .bits128 s.unit.opa) ∨
      (r.number = 0x3 ∧ v = .bits128 s.unit.opb) ∨ (r.number = 0x4 ∧ v = .bits128 s.unit.res) ∨
      (r.number = 0x5 ∧ v = .bits128 s.unit.y) ∨ (r.number = 0x6 ∧ v = .bits128 s.unit.cb) ∨
      (r.number = 0x7 ∧ v = .bits64 s.unit.lena) ∨ (r.number = 0x8 ∧ v = .bits64 s.unit.lenc) →
      performOp (.read r) s = .next { s with replies := s.replies ++ [v] }) ∧
    (∀ r : Reg, r.number = 0x0 ∨ 0x9 ≤ r.number →
      (s.unit.err = .clear → performOp (.read r) s =
        .next { s with unit := { s.unit with err := .access }, replies := s.replies ++ [.zero] }) ∧
      (s.unit.err ≠ .clear → performOp (.read r) s = .next { s with replies := s.replies ++ [.zero] })) ∧
    PortValue.zero.toNat = 0 ∧ (∀ n : BitVec 4, (Reg.ofNumber n).number = n)

/-- R54: `WR(r, v)`, by register number; the value has the register's width. -/
def Obligations.WriteStoresOrFaults : Prop :=
  ∀ s : State,
    (∀ w : Word, performOp (.write (.cmd w)) s = executeWord w s) ∧
    (∀ v : Block, performOp (.write (.opa v)) s = .next { s with unit := { s.unit with opa := v } }) ∧
    (∀ v : Block, performOp (.write (.opb v)) s = .next { s with unit := { s.unit with opb := v } }) ∧
    (∀ v : Block, performOp (.write (.cb v)) s = .next { s with unit := { s.unit with cb := v } }) ∧
    (∀ w : RegWrite, w.reg.number ≠ 0x0 → w.reg.number ≠ 0x2 → w.reg.number ≠ 0x3 → w.reg.number ≠ 0x6 →
      (s.unit.err = .clear → performOp (.write w) s = .next { s with unit := { s.unit with err := .access } }) ∧
      (s.unit.err ≠ .clear → performOp (.write w) s = .next s)) ∧
    (∀ (w : RegWrite) (n : Nat), w.reg.width = some n → w.value < 2 ^ n)

/-- R77: the encoding of a host operation as a triple loses nothing. -/
def Obligations.TriplesEncodeHostOperations : Prop :=
  ∀ o : HostOp, hostOpOfTriple o.triple = some o

/-- R10: the unit takes one step per input and never acts on its own. -/
def Obligations.StepTakesOneInput : Prop :=
  (∀ s : State, s.inputs = [] → step s = .next s) ∧
  (∀ (s : State) (o : HostOp) (rest : List Input), s.inputs = .op o :: rest →
    step s = performOp o { s with inputs := rest }) ∧
  (∀ (s : State) (rest : List Input), s.inputs = .hardwareReset :: rest →
    step s = .next { s with unit := GhctrUnit.reset, inputs := rest })

/-- R27: the fields of `STATUS`, and its reserved bits. -/
def Obligations.StatusLayout : Prop :=
  ∀ u : GhctrUnit,
    (statusWord u).extractLsb' 0 1 = (if u.hvalid then 1 else 0) ∧
    (statusWord u).extractLsb' 1 2 =
      (match u.phase with | .idle => 0 | .aad => 1 | .ct => 2 | .done => 3) ∧
    (statusWord u).extractLsb' 3 1 = (if u.tagok then 1 else 0) ∧
    (statusWord u).extractLsb' 4 4 = 0 ∧
    (statusWord u).extractLsb' 8 4 =
      (match u.err with
        | .clear => 0 | .opcode => 1 | .nb => 2 | .noh => 3 | .seq => 4 | .len => 5 | .auth => 6 | .access => 7) ∧
    (statusWord u).extractLsb' 12 20 = 0

/-- R40: after a hardware reset and after `SRESET` every component is zero, from any state; the machine starts so. -/
def Obligations.ResetLeavesEverythingZero : Prop :=
  ∃ z : GhctrUnit,
    z.opa = 0 ∧ z.opb = 0 ∧ z.res = 0 ∧ z.h = 0 ∧ (∀ n : Nibble, lookup z.tbl n = 0) ∧ z.y = 0 ∧ z.cb = 0 ∧
    z.lena = 0 ∧ z.lenc = 0 ∧ z.hvalid = false ∧ z.phase = .idle ∧ z.tagok = false ∧ z.err = .clear ∧
    statusWord z = 0x00000000 ∧ State.reset.unit = z ∧
    (∀ s : State, acceptInput .hardwareReset s = .next { s with unit := z }) ∧
    (∀ s : State, exec .sreset s = .next { s with unit := z })

/-- R11: a host operation has one of three outcomes, and there is no fourth: no step stops. In every outcome the cipher
and the host's queue are as they were. -/
def Obligations.EveryOperationIsDoneFaultedOrRefused : Prop :=
  (∀ s : State, ∃ t, step s = .next t ∧ t.cipher = s.cipher) ∧
  (∀ (o : HostOp) (s : State), ∃ t, performOp o s = .next t ∧ t.cipher = s.cipher ∧ t.inputs = s.inputs ∧
    (-- Done
      (t.unit.err = s.unit.err ∨ t.unit.err = .clear) ∨
      -- Fault: a cause code is recorded and nothing else changes, but for TAGCMP
      (s.unit.err = .clear ∧ t.unit.err ≠ .clear ∧
        (t.unit = { s.unit with err := t.unit.err } ∨
          (o = .write (.cmd 0x00000031) ∧
            t.unit = { s.unit with res := 0, tagok := false, err := .auth }))))) ∧
  (-- Refused
    ∀ (w : Word) (s : State), s.unit.err ≠ .clear → w ≠ 0x0000007E → w ≠ 0x0000007F →
      performOp (.write (.cmd w)) s = .next s)

/-- R60: running the machine over a queue of host operations is issuing them one after another. -/
def Obligations.RunningTheQueueIssuesItsOperations : Prop :=
  ∀ (os : List HostOp) (s t : State), s.inputs = [] → issue os s = .next t →
    Sys2Proof.core.run os.length { s with inputs := os.map .op } = .next t

/-! ### Faults (60_exceptions.md) -/

/-- R203: the fault one command word records is the first that applies, in the order of the rule. -/
def Obligations.FaultPriority : Prop :=
  ∀ (w : Word) (s : State), s.unit.err = .clear → ∃ t, executeWord w s = .next t ∧
    (BadOpcode w → t.unit.err = .opcode) ∧
    (¬ BadOpcode w → BadCount w → t.unit.err = .nb) ∧
    (¬ BadOpcode w → ¬ BadCount w → opcodeField w ∈ subkeyOpcodes → s.unit.hvalid = false → t.unit.err = .noh) ∧
    (¬ BadOpcode w → ¬ BadCount w → (opcodeField w ∈ subkeyOpcodes → s.unit.hvalid = true) → BadSequence w s.unit →
      t.unit.err = .seq) ∧
    (¬ BadOpcode w → ¬ BadCount w → (opcodeField w ∈ subkeyOpcodes → s.unit.hvalid = true) →
      ¬ BadSequence w s.unit → BadLength w s.unit → t.unit.err = .len) ∧
    (¬ BadOpcode w → ¬ BadCount w → (opcodeField w ∈ subkeyOpcodes → s.unit.hvalid = true) →
      ¬ BadSequence w s.unit → ¬ BadLength w s.unit → BadTag w s → t.unit.err = .auth) ∧
    (¬ BadOpcode w → ¬ BadCount w → (opcodeField w ∈ subkeyOpcodes → s.unit.hvalid = true) →
      ¬ BadSequence w s.unit → ¬ BadLength w s.unit → ¬ BadTag w s → t.unit.err = .clear)

/-- R206: faults are precise; the one exception is the `ERR_AUTH` of `TAGCMP`. -/
def Obligations.FaultsArePrecise : Prop :=
  ∀ (o : HostOp) (s t : State), performOp o s = .next t → s.unit.err = .clear → t.unit.err ≠ .clear →
    (t.unit.err ≠ .auth → t.unit = { s.unit with err := t.unit.err }) ∧
    (t.unit.err = .auth → o = .write (.cmd (encode .tagcmp)) ∧
      t.unit = { s.unit with res := 0, tagok := false, err := .auth })

/-- R202: the faults each operation can raise, complete; a command word that is no command is the write's own fault. -/
def Obligations.CommandsRaiseOnlyTheirFaults : Prop :=
  (∀ (i : Instr) (s t : State), s.unit.err = .clear → exec i s = .next t → t.unit.err ≠ .clear →
    match i with
    | .nop | .gfmul | .ghinit | .inc32 | .clrerr | .sreset => False
    | .hload | .hkey => t.unit.err = .seq
    | .hmul => t.unit.err = .noh
    | .ghaad _ | .ghct _ => t.unit.err ∈ [ErrCode.nb, .noh, .seq, .len]
    | .ghlen | .taggen => t.unit.err ∈ [ErrCode.noh, .seq]
    | .ctrxor _ => t.unit.err = .nb
    | .tagcmp => t.unit.err ∈ [ErrCode.noh, .seq, .auth]) ∧
  (∀ (w : Word) (s t : State), s.unit.err = .clear → (∀ i, decode w ≠ .ok i) →
    performOp (.write (.cmd w)) s = .next t → t.unit.err = .opcode) ∧
  (∀ (o : HostOp) (s t : State), (∀ w, o ≠ .write (.cmd w)) → s.unit.err = .clear → performOp o s = .next t →
    t.unit.err ≠ .clear → t.unit.err = .access)

/-- R205: in the faulted state every command word but the two exact ones is refused, reads of readable registers and
writes of `OPA`, `OPB`, `CB` go on, and a whole sequence of command words leaves the state as it was. -/
def Obligations.FaultedStateRefusesCommands : Prop :=
  ∀ s : State, s.unit.err ≠ .clear →
    (∀ ws : List Word, (∀ w ∈ ws, w ≠ 0x0000007E ∧ w ≠ 0x0000007F) →
      issue (ws.map fun w => .write (.cmd w)) s = .next s) ∧
    (∀ r : Reg, r ∈ [Reg.status, .opa, .opb, .res, .y, .cb, .lena, .lenc] →
      performOp (.read r) s = .next { s with replies := s.replies ++ [(readReg r s.unit).2] }) ∧
    (∀ v : Block, performOp (.write (.opa v)) s = .next { s with unit := { s.unit with opa := v } }) ∧
    (∀ v : Block, performOp (.write (.opb v)) s = .next { s with unit := { s.unit with opb := v } }) ∧
    (∀ v : Block, performOp (.write (.cb v)) s = .next { s with unit := { s.unit with cb := v } })

/-- R204: recording a fault keeps the first one and writes nothing else; R208: after `CLRERR` the next is recorded
afresh. -/
def Obligations.FirstFaultIsKept : Prop :=
  ∀ (u : GhctrUnit) (e f : ErrCode), e ≠ .clear →
    (u.err = .clear → raise e u = { u with err := e }) ∧
    (u.err ≠ .clear → raise e u = u) ∧
    raise f (raise e u) = raise e u ∧
    raise f (acknowledge (raise e u)) = { u with err := f }

/-! ### The field and the table (40_gf128.md) -/

/-- R92: multiplication by `x`: the formula, the coefficients it moves, and the rule's examples. -/
def Obligations.MulxMultipliesByX : Prop :=
  (∀ v : Block, mulx v = (v >>> 1) ^^^ (if v.getLsbD 0 then 0xE1000000000000000000000000000000 else 0)) ∧
  (∀ v : Block, fieldPoly ∣ Polynomial.X * toPoly v - toPoly (mulx v)) ∧
  mulx 0x80000000000000000000000000000000 = 0x40000000000000000000000000000000 ∧
  mulx 0x00000000000000000000000000000001 = 0xe1000000000000000000000000000000 ∧
  mulx 0xffffffffffffffffffffffffffffffff = 0x9effffffffffffffffffffffffffffff ∧
  mulx 0 = 0

/-- R90, R93: `multiply` is the product in the field: the polynomial of the result is the product of the polynomials
modulo the field polynomial, and a value is determined by its polynomial, of degree below 128. -/
def Obligations.MultiplyIsTheFieldProduct : Prop :=
  (∀ a b : Block, fieldPoly ∣ toPoly a * toPoly b - toPoly (multiply a b)) ∧
  (∀ a : Block, (toPoly a).degree < 128) ∧ fieldPoly.natDegree = 128 ∧
  (∀ a b : Block, toPoly (a ^^^ b) = toPoly a + toPoly b) ∧
  (∀ a b : Block, toPoly a = toPoly b → a = b)

/-- R99, laws 1 to 6, and its remark on the integer 1. -/
def Obligations.MultiplicationLaws : Prop :=
  (∀ a b : Block, multiply a b = multiply b a) ∧
  (∀ a b c : Block, multiply a (multiply b c) = multiply (multiply a b) c) ∧
  (∀ a b c : Block, multiply (a ^^^ b) c = multiply a c ^^^ multiply b c) ∧
  (∀ a : Block, multiply a 0 = 0) ∧
  (∀ a : Block, multiply a one = a) ∧
  (∀ a : Block, multiply a polyX = mulx a) ∧
  multiply 1 1 = 0xe6080000000000000000000000000003

/-- R99, law 7: a field has no zero divisors. -/
def Obligations.NoZeroDivisors : Prop :=
  ∀ a b : Block, multiply a b = 0 → a = 0 ∨ b = 0

/-- R95: the entries of the table. -/
def Obligations.TableEntriesAreMultiples : Prop :=
  ∀ h : Block,
    (∀ n : Nibble, lookup (buildTable h) n =
      (if n.getLsbD 3 then h else 0) ^^^ (if n.getLsbD 2 then mulx h else 0) ^^^
        (if n.getLsbD 1 then mulx (mulx h) else 0) ^^^ (if n.getLsbD 0 then mulx (mulx (mulx h)) else 0)) ∧
    (∀ n : Nibble, lookup (buildTable h) n = multiply (n.setWidth 128 <<< 124) h) ∧
    lookup (buildTable h) 0 = 0 ∧ lookup (buildTable h) 8 = h ∧ lookup (buildTable h) 4 = mulx h ∧
    lookup (buildTable h) 2 = mulx (mulx h) ∧ lookup (buildTable h) 1 = mulx (mulx (mulx h)) ∧
    (∀ i j : Nibble, lookup (buildTable h) (i ^^^ j) = lookup (buildTable h) i ^^^ lookup (buildTable h) j) ∧
    lookup (buildTable nistH) 1 = 0x9d5d297a9df1458771099f4b39468565 ∧
    lookup (buildTable nistH) 15 = 0x307a95b13e5cf4afdf7026a864e5b117

/-- R96: `mulx4` is `mulx` four times, through the constant table `RED4`, whose entries are listed. -/
def Obligations.Mulx4IsMulxFourTimes : Prop :=
  (∀ z : Block, mulx4 z = (z >>> 4) ^^^ red4 (z.extractLsb' 0 4)) ∧
  (∀ n : Nibble, red4 n = mulx (mulx (mulx (mulx (n.setWidth 128))))) ∧
  (∀ z : Block, mulx4 z = mulx (mulx (mulx (mulx z)))) ∧
  (List.ofFn fun n : Fin 16 => red4 (BitVec.ofFin n)) =
    [0x00000000000000000000000000000000, 0x1c200000000000000000000000000000, 0x38400000000000000000000000000000,
     0x24600000000000000000000000000000, 0x70800000000000000000000000000000, 0x6ca00000000000000000000000000000,
     0x48c00000000000000000000000000000, 0x54e00000000000000000000000000000, 0xe1000000000000000000000000000000,
     0xfd200000000000000000000000000000, 0xd9400000000000000000000000000000, 0xc5600000000000000000000000000000,
     0x91800000000000000000000000000000, 0x8da00000000000000000000000000000, 0xa9c00000000000000000000000000000,
     0xb5e00000000000000000000000000000] ∧
  mulx4 0x0123456789abcdeffedcba987654321f = 0xb5f23456789abcdeffedcba987654321

/-- R98: the table law. -/
def Obligations.TableProductIsTheFieldProduct : Prop :=
  ∀ h x : Block, tblmul (buildTable h) x = multiply x h

/-! ### The commands, one statement each

Each says: the word; the next state, in full, when the conditions of the rule hold; the next state for each fault, in
the order of the checks; that the faulted unit refuses the command; and the corner cases and examples of the rule. -/

/-- R165. -/
def Obligations.NopChangesNothing : Prop :=
  encode .nop = 0x00000000 ∧ ∀ s, exec .nop s = .next s

/-- R100. -/
def Obligations.GfmulWritesTheProduct : Prop :=
  encode .gfmul = 0x00000001 ∧
  (∀ s : State, s.unit.err = .clear →
    exec .gfmul s = .next { s with unit := { s.unit with res := multiply s.unit.opa s.unit.opb } }) ∧
  (∀ s : State, s.unit.err ≠ .clear → exec .gfmul s = .next s) ∧
  (∀ s t : State, exec .gfmul s = .next t → exec .gfmul t = .next t) ∧
  (∀ b : Block, multiply 0 b = 0) ∧ (∀ a : Block, multiply a 0 = 0) ∧ (∀ a : Block, multiply a one = a) ∧
  multiply 0x0123456789abcdeffedcba9876543210 0x00112233445566778899aabbccddeeff =
    0x24d54fb01d1e73fb113b0207cac38dff

/-- R101. -/
def Obligations.HloadLoadsOpa : Prop :=
  encode .hload = 0x00000002 ∧
  (∀ s : State, s.unit.err = .clear → s.unit.phase = .idle ∨ s.unit.phase = .done →
    exec .hload s =
      .next { s with unit := { s.unit with h := s.unit.opa, tbl := buildTable s.unit.opa, hvalid := true } }) ∧
  (∀ s : State, s.unit.err = .clear → s.unit.phase = .aad ∨ s.unit.phase = .ct →
    exec .hload s = .next { s with unit := { s.unit with err := .seq } }) ∧
  (∀ s : State, s.unit.err ≠ .clear → exec .hload s = .next s) ∧
  (∀ n : Nibble, lookup (buildTable 0) n = 0) ∧ (∀ a c : List Byte, ghash 0 a c = 0) ∧
  lookup (buildTable nistH) 8 = 0x66e94bd4ef8a2c3b884cfa59ca342b2e ∧
  lookup (buildTable nistH) 4 = 0x3374a5ea77c5161dc4267d2ce51a1597 ∧
  statusWord { GhctrUnit.reset with h := nistH, tbl := buildTable nistH, hvalid := true } = 0x00000001

/-- R102. -/
def Obligations.HkeyLoadsTheCipherOfZero : Prop :=
  encode .hkey = 0x00000003 ∧
  (∀ s : State, s.unit.err = .clear → s.unit.phase = .idle ∨ s.unit.phase = .done →
    exec .hkey s =
      .next { s with unit := { s.unit with h := s.cipherAt 0, tbl := buildTable (s.cipherAt 0), hvalid := true } }) ∧
  (∀ s : State, s.unit.err = .clear → s.unit.phase = .aad ∨ s.unit.phase = .ct →
    exec .hkey s = .next { s with unit := { s.unit with err := .seq } }) ∧
  (∀ s : State, s.unit.err ≠ .clear → exec .hkey s = .next s) ∧
  (∀ s t : State, exec .hkey s = .next t → exec .hkey t = .next t)

/-- R103. -/
def Obligations.HmulMultipliesByTheSubkey : Prop :=
  encode .hmul = 0x00000004 ∧
  (∀ s : State, s.unit.err = .clear → s.unit.hvalid = true →
    exec .hmul s = .next { s with unit := { s.unit with res := tblmul s.unit.tbl s.unit.opa } }) ∧
  (∀ s : State, s.unit.err = .clear → s.unit.hvalid = true → s.unit.tbl = buildTable s.unit.h →
    exec .hmul s = .next { s with unit := { s.unit with res := multiply s.unit.opa s.unit.h } }) ∧
  (∀ s : State, s.unit.err = .clear → s.unit.hvalid = false →
    exec .hmul s = .next { s with unit := { s.unit with err := .noh } }) ∧
  (∀ s : State, s.unit.err ≠ .clear → exec .hmul s = .next s) ∧
  (∀ h : Block, tblmul (buildTable h) 0 = 0 ∧ tblmul (buildTable h) one = h) ∧
  tblmul (buildTable nistH) 0x0388dace60b6a392f328c2b971b2fe78 = 0x5e2ec746917062882c85b0685353deb7

/-- R125. -/
def Obligations.GhinitBeginsAMessage : Prop :=
  encode .ghinit = 0x00000010 ∧
  (∀ s : State, s.unit.err = .clear →
    exec .ghinit s =
      .next { s with unit := { s.unit with y := 0, lena := 0, lenc := 0, phase := .aad, tagok := false } }) ∧
  (∀ s : State, s.unit.err ≠ .clear → exec .ghinit s = .next s) ∧
  (∀ u : GhctrUnit, statusWord u = 0x00000001 →
    statusWord { u with y := 0, lena := 0, lenc := 0, phase := .aad, tagok := false } = 0x00000003)

/-- R126. -/
def Obligations.GhaadAbsorbsAnAadChunk : Prop :=
  (∀ nb : Count, encode (.ghaad nb) = (nb.setWidth 32 <<< 8) ||| 0x11) ∧
  (∀ (s : State) (nb : Count), s.unit.err = .clear → 1 ≤ nb.toNat → nb.toNat ≤ 16 → s.unit.hvalid = true →
    s.unit.phase = .aad → s.unit.lena.toNat % 128 = 0 → s.unit.lena.toNat + 8 * nb.toNat ≤ 2 ^ 64 - 1 →
    exec (.ghaad nb) s = .next { s with unit := { s.unit with
      y := tblmul s.unit.tbl (s.unit.y ^^^ keep s.unit.opa nb),
      lena := BitVec.ofNat 64 (s.unit.lena.toNat + 8 * nb.toNat) } }) ∧
  (∀ (s : State) (nb : Count), s.unit.err = .clear → nb.toNat = 0 ∨ 17 ≤ nb.toNat →
    exec (.ghaad nb) s = .next { s with unit := { s.unit with err := .nb } }) ∧
  (∀ (s : State) (nb : Count), s.unit.err = .clear → 1 ≤ nb.toNat → nb.toNat ≤ 16 → s.unit.hvalid = false →
    exec (.ghaad nb) s = .next { s with unit := { s.unit with err := .noh } }) ∧
  (∀ (s : State) (nb : Count), s.unit.err = .clear → 1 ≤ nb.toNat → nb.toNat ≤ 16 → s.unit.hvalid = true →
    ¬ (s.unit.phase = .aad ∧ s.unit.lena.toNat % 128 = 0) →
    exec (.ghaad nb) s = .next { s with unit := { s.unit with err := .seq } }) ∧
  (∀ (s : State) (nb : Count), s.unit.err = .clear → 1 ≤ nb.toNat → nb.toNat ≤ 16 → s.unit.hvalid = true →
    s.unit.phase = .aad → s.unit.lena.toNat % 128 = 0 → 2 ^ 64 - 1 < s.unit.lena.toNat + 8 * nb.toNat →
    exec (.ghaad nb) s = .next { s with unit := { s.unit with err := .len } }) ∧
  (∀ (s : State) (nb : Count), s.unit.err ≠ .clear → exec (.ghaad nb) s = .next s) ∧
  (∀ (bits : BitCount) (nb : Count), bits.toNat % 8 = 0 →
    (bits.toNat + 8 * nb.toNat ≤ 2 ^ 64 - 1 ↔ bits.toNat + 8 * nb.toNat ≤ 2 ^ 64 - 8)) ∧
  (∀ (u : GhctrUnit) (nb : Count), u.tbl = buildTable u.h →
    tblmul u.tbl (u.y ^^^ keep u.opa nb) = multiply (u.y ^^^ keep u.opa nb) u.h) ∧
  (∀ (v : Block) (nb : Count) (i : Nat), i < 16 → byte (keep v nb) i = if i < nb.toNat then byte v i else 0) ∧
  keep 0x637478ffffffffffffffffffffffffff 3 = 0x63747800000000000000000000000000 ∧
  tblmul (buildTable nistH) (0 ^^^ 0x63747800000000000000000000000000) = 0xafcc6b0ec7e8945c30d878a4731f15ef

/-- R127. -/
def Obligations.GhctAbsorbsACiphertextChunk : Prop :=
  (∀ nb : Count, encode (.ghct nb) = (nb.setWidth 32 <<< 8) ||| 0x12) ∧
  (∀ (s : State) (nb : Count), s.unit.err = .clear → 1 ≤ nb.toNat → nb.toNat ≤ 16 → s.unit.hvalid = true →
    s.unit.phase = .aad ∨ s.unit.phase = .ct → s.unit.lenc.toNat % 128 = 0 →
    s.unit.lenc.toNat + 8 * nb.toNat ≤ 2 ^ 64 - 1 →
    exec (.ghct nb) s = .next { s with unit := { s.unit with
      y := tblmul s.unit.tbl (s.unit.y ^^^ keep s.unit.opa nb),
      lenc := BitVec.ofNat 64 (s.unit.lenc.toNat + 8 * nb.toNat), phase := .ct } }) ∧
  (∀ (s : State) (nb : Count), s.unit.err = .clear → nb.toNat = 0 ∨ 17 ≤ nb.toNat →
    exec (.ghct nb) s = .next { s with unit := { s.unit with err := .nb } }) ∧
  (∀ (s : State) (nb : Count), s.unit.err = .clear → 1 ≤ nb.toNat → nb.toNat ≤ 16 → s.unit.hvalid = false →
    exec (.ghct nb) s = .next { s with unit := { s.unit with err := .noh } }) ∧
  (∀ (s : State) (nb : Count), s.unit.err = .clear → 1 ≤ nb.toNat → nb.toNat ≤ 16 → s.unit.hvalid = true →
    ¬ ((s.unit.phase = .aad ∨ s.unit.phase = .ct) ∧ s.unit.lenc.toNat % 128 = 0) →
    exec (.ghct nb) s = .next { s with unit := { s.unit with err := .seq } }) ∧
  (∀ (s : State) (nb : Count), s.unit.err = .clear → 1 ≤ nb.toNat → nb.toNat ≤ 16 → s.unit.hvalid = true →
    s.unit.phase = .aad ∨ s.unit.phase = .ct → s.unit.lenc.toNat % 128 = 0 →
    2 ^ 64 - 1 < s.unit.lenc.toNat + 8 * nb.toNat →
    exec (.ghct nb) s = .next { s with unit := { s.unit with err := .len } }) ∧
  (∀ (s : State) (nb : Count), s.unit.err ≠ .clear → exec (.ghct nb) s = .next s) ∧
  (∀ (s : State) (nb nb' : Count) (t : State), exec (.ghct nb) s = .next t → t.unit.phase = .ct →
    t.unit.err = .clear → t.unit.hvalid = true → 1 ≤ nb'.toNat → nb'.toNat ≤ 16 →
    exec (.ghaad nb') t = .next { t with unit := { t.unit with err := .seq } }) ∧
  (∀ (u : GhctrUnit) (nb : Count), u.tbl = buildTable u.h →
    tblmul u.tbl (u.y ^^^ keep u.opa nb) = multiply (u.y ^^^ keep u.opa nb) u.h) ∧
  tblmul (buildTable nistH) (0 ^^^ keep 0x0388dace60b6a392f328c2b971b2fe78 16) = 0x5e2ec746917062882c85b0685353deb7

/-- R128. -/
def Obligations.GhlenAbsorbsTheLengthBlock : Prop :=
  encode .ghlen = 0x00000013 ∧
  (∀ s : State, s.unit.err = .clear → s.unit.hvalid = true → s.unit.phase = .aad ∨ s.unit.phase = .ct →
    exec .ghlen s = .next { s with unit := { s.unit with
      y := tblmul s.unit.tbl (s.unit.y ^^^ (s.unit.lena ++ s.unit.lenc)), phase := .done } }) ∧
  (∀ s : State, s.unit.err = .clear → s.unit.hvalid = false →
    exec .ghlen s = .next { s with unit := { s.unit with err := .noh } }) ∧
  (∀ s : State, s.unit.err = .clear → s.unit.hvalid = true → s.unit.phase = .idle ∨ s.unit.phase = .done →
    exec .ghlen s = .next { s with unit := { s.unit with err := .seq } }) ∧
  (∀ s : State, s.unit.err ≠ .clear → exec .ghlen s = .next s) ∧
  (∀ (i : Instr) (s t : State), exec i s = .next t → s.unit.phase ≠ .done → t.unit.phase = .done → i = .ghlen) ∧
  tblmul (buildTable nistH) (0x5e2ec746917062882c85b0685353deb7 ^^^ 0x00000000000000000000000000000080) =
    0xf38cbb1ad69223dcc3457ae5b6b0f885

/-- R145. -/
def Obligations.Inc32IncrementsTheCounterBlock : Prop :=
  encode .inc32 = 0x00000020 ∧
  (∀ s : State, s.unit.err = .clear →
    exec .inc32 s = .next { s with unit := { s.unit with cb := inc32 s.unit.cb } }) ∧
  (∀ s : State, s.unit.err ≠ .clear → exec .inc32 s = .next s) ∧
  (∀ p : BitVec 96, inc32 (p ++ 0xffffffff#32) = p ++ 0x00000000#32) ∧
  (∀ j0 : Block, ∀ s : State, s.unit.err = .clear →
    issue [.write (.cb j0), commandOp .inc32] s = performOp (.write (.cb (inc32 j0))) s) ∧
  inc32 0x000102030405060708090a0b00000001 = 0x000102030405060708090a0b00000002

/-- R146. -/
def Obligations.CtrxorEncryptsAChunk : Prop :=
  (∀ nb : Count, encode (.ctrxor nb) = (nb.setWidth 32 <<< 8) ||| 0x21) ∧
  (∀ (s : State) (nb : Count), s.unit.err = .clear → 1 ≤ nb.toNat → nb.toNat ≤ 16 →
    exec (.ctrxor nb) s = .next { s with unit := { s.unit with
      res := keep (s.unit.opa ^^^ s.cipherAt s.unit.cb) nb, cb := inc32 s.unit.cb } }) ∧
  (∀ (s : State) (nb : Count), s.unit.err = .clear → nb.toNat = 0 ∨ 17 ≤ nb.toNat →
    exec (.ctrxor nb) s = .next { s with unit := { s.unit with err := .nb } }) ∧
  (∀ (s : State) (nb : Count), s.unit.err ≠ .clear → exec (.ctrxor nb) s = .next s) ∧
  (∀ (v k : Block) (nb : Count) (i : Nat), i < 16 →
    byte (keep (v ^^^ k) nb) i = if i < nb.toNat then byte v i ^^^ byte k i else 0) ∧
  (∀ k : Block, keep (0 ^^^ k) 16 = k) ∧
  keep (0 ^^^ 0x0388dace60b6a392f328c2b971b2fe78) 16 = 0x0388dace60b6a392f328c2b971b2fe78 ∧
  keep (0xffffffffffffffffffffffffffffffff ^^^ 0x0388dace60b6a392f328c2b971b2fe78) 5 =
    0xfc7725319f0000000000000000000000

/-- R157. -/
def Obligations.TaggenFormsTheTag : Prop :=
  encode .taggen = 0x00000030 ∧
  (∀ s : State, s.unit.err = .clear → s.unit.hvalid = true → s.unit.phase = .done →
    exec .taggen s = .next { s with unit := { s.unit with res := s.unit.y ^^^ s.cipherAt s.unit.cb } }) ∧
  (∀ s : State, s.unit.err = .clear → s.unit.hvalid = false →
    exec .taggen s = .next { s with unit := { s.unit with err := .noh } }) ∧
  (∀ s : State, s.unit.err = .clear → s.unit.hvalid = true → s.unit.phase ≠ .done →
    exec .taggen s = .next { s with unit := { s.unit with err := .seq } }) ∧
  (∀ s : State, s.unit.err ≠ .clear → exec .taggen s = .next s) ∧
  (∀ s t : State, exec .taggen s = .next t → exec .taggen t = .next t) ∧
  (∀ s t t' : State, s.unit.err = .clear → s.unit.hvalid = true → s.unit.phase = .done → exec .taggen s = .next t →
    issue [.write (.opa s.unit.y), commandOp (.ctrxor 16)] s = .next t' → t'.unit.res = t.unit.res) ∧
  (0xf38cbb1ad69223dcc3457ae5b6b0f885 : Block) ^^^ 0x58e2fccefa7e3061367f1d57a4e7455a =
    0xab6e47d42cec13bdf53a67b21257bddf

/-- R158. -/
def Obligations.TagcmpComparesTheTag : Prop :=
  encode .tagcmp = 0x00000031 ∧
  (∀ s : State, s.unit.err = .clear → s.unit.hvalid = true → s.unit.phase = .done →
    s.unit.opa = s.unit.y ^^^ s.cipherAt s.unit.cb →
    exec .tagcmp s = .next { s with unit := { s.unit with res := 0, tagok := true } }) ∧
  (∀ s : State, s.unit.err = .clear → s.unit.hvalid = true → s.unit.phase = .done →
    s.unit.opa ≠ s.unit.y ^^^ s.cipherAt s.unit.cb →
    exec .tagcmp s = .next { s with unit := { s.unit with res := 0, tagok := false, err := .auth } }) ∧
  (∀ s : State, s.unit.err = .clear → s.unit.hvalid = false →
    exec .tagcmp s = .next { s with unit := { s.unit with err := .noh } }) ∧
  (∀ s : State, s.unit.err = .clear → s.unit.hvalid = true → s.unit.phase ≠ .done →
    exec .tagcmp s = .next { s with unit := { s.unit with err := .seq } }) ∧
  (∀ s : State, s.unit.err ≠ .clear → exec .tagcmp s = .next s) ∧
  (∀ (s t : State) (w : Word), exec .tagcmp s = .next t → t.unit.err = .auth → w ≠ 0x0000007E → w ≠ 0x0000007F →
    executeWord w t = .next t) ∧
  (∀ (i : Instr) (s t : State), exec i s = .next t → s.unit.tagok = true → t.unit.tagok = false →
    i = .ghinit ∨ i = .tagcmp ∨ i = .sreset) ∧
  (0xee01366a143fdfbc1d71831744d790ee : Block) ^^^ 0x8f938f40f877e0c4af37d0fe9af03305 =
    0x6192b92aec483f78b24653e9de27a3eb ∧
  (0xb7f7c23d4933b2b4d789750477e82403 : Block) ^^^ 0x8f938f40f877e0c4af37d0fe9af03305 =
    0x38644d7db144527078bea5faed181706

/-- R166. -/
def Obligations.ClrerrAcknowledgesTheFault : Prop :=
  encode .clrerr = 0x0000007E ∧
  (∀ s : State, exec .clrerr s = .next { s with unit := { s.unit with err := .clear } }) ∧
  (∀ s : State, s.unit.err = .clear → exec .clrerr s = .next s) ∧
  (∀ (s : State), executeWord 0x0000007E s = .next { s with unit := { s.unit with err := .clear } }) ∧
  (∀ (i : Instr) (s : State), s.unit.err ≠ .clear → i ≠ .clrerr → i ≠ .sreset → exec i s = .next s) ∧
  (∀ (o : HostOp) (s t : State), performOp o s = .next t → s.unit.err = .clear → t.unit.err ≠ .clear →
    t.unit.err ≠ .auth → exec .clrerr t = .next { t with unit := s.unit }) ∧
  (∀ u : GhctrUnit, statusWord u = 0x00000607 → statusWord { u with err := .clear } = 0x00000007)

/-- R167. -/
def Obligations.SresetResetsTheUnit : Prop :=
  encode .sreset = 0x0000007F ∧
  (∀ s : State, exec .sreset s = .next { s with unit := {
    opa := 0, opb := 0, res := 0, h := 0, tbl := Vector.replicate 16 0, y := 0, cb := 0, lena := 0, lenc := 0,
    hvalid := false, phase := .idle, tagok := false, err := .clear } }) ∧
  (∀ s : State, executeWord 0x0000007F s = exec .sreset s) ∧
  (∀ s : State, exec .sreset s = acceptInput .hardwareReset s) ∧
  (∀ s t : State, exec .sreset s = .next t → ∀ v, t.cipherAt v = s.cipherAt v)

/-! ### Who writes what -/

/-- 10_state.md R42, restated over the commands: a component changes only by the commands the table marks. -/
def Obligations.CommandsWriteOnlyTheirComponents : Prop :=
  ∀ (i : Instr) (s t : State), exec i s = .next t → i ≠ .sreset →
    t.unit.opa = s.unit.opa ∧ t.unit.opb = s.unit.opb ∧
    (t.unit.res ≠ s.unit.res → i = .gfmul ∨ i = .hmul ∨ i = .taggen ∨ i = .tagcmp ∨ ∃ nb, i = .ctrxor nb) ∧
    (t.unit.h ≠ s.unit.h ∨ t.unit.tbl ≠ s.unit.tbl ∨ t.unit.hvalid ≠ s.unit.hvalid → i = .hload ∨ i = .hkey) ∧
    (t.unit.y ≠ s.unit.y → i = .ghinit ∨ i = .ghlen ∨ ∃ nb, i = .ghaad nb ∨ i = .ghct nb) ∧
    (t.unit.lena ≠ s.unit.lena → i = .ghinit ∨ ∃ nb, i = .ghaad nb) ∧
    (t.unit.lenc ≠ s.unit.lenc → i = .ghinit ∨ ∃ nb, i = .ghct nb) ∧
    (t.unit.phase ≠ s.unit.phase →
      (i = .ghinit ∧ t.unit.phase = .aad) ∨ ((∃ nb, i = .ghct nb) ∧ t.unit.phase = .ct) ∨
        (i = .ghlen ∧ t.unit.phase = .done)) ∧
    (t.unit.cb ≠ s.unit.cb → (i = .inc32 ∨ ∃ nb, i = .ctrxor nb) ∧ t.unit.cb = inc32 s.unit.cb) ∧
    (t.unit.tagok ≠ s.unit.tagok → (i = .ghinit ∧ t.unit.tagok = false) ∨ i = .tagcmp) ∧
    t.cipher = s.cipher ∧ t.inputs = s.inputs ∧ t.replies = s.replies

/-- 10_state.md R21, R22: no command writes `OPA` or `OPB`: in a run they change only by a write of the host and by
reset. -/
def Obligations.OperandsChangeOnlyByTheHost : Prop :=
  ∀ s t : State, step s = .next t →
    (t.unit.opa ≠ s.unit.opa → (∃ v rest, s.inputs = .op (.write (.opa v)) :: rest ∧ t.unit.opa = v) ∨
      t.unit = GhctrUnit.reset) ∧
    (t.unit.opb ≠ s.unit.opb → (∃ v rest, s.inputs = .op (.write (.opb v)) :: rest ∧ t.unit.opb = v) ∨
      t.unit = GhctrUnit.reset)

/-! ### Invariants of every step -/

/-- R34, R37, R28, R29, R158: the table is the table of `H`, the counters are whole bytes, the flags agree with the
registers, and after a mismatch nothing of the message is readable in `RES`. -/
def Obligations.StepKeepsTheUnitInvariant : Prop :=
  ∀ s t : State, UnitInvariant s.unit → step s = .next t → UnitInvariant t.unit

/-- The invariant holds after reset. -/
def Obligations.ResetMeetsTheUnitInvariant : Prop := UnitInvariant State.reset.unit

/-- R129, second half, as an invariant: whatever the host does, the accumulator, the counters and the phase are those of
the very chunks it handed over: if they are those of a message before a step, then after it they are those of that
message with the step's chunk added (`Message.after`). In `DONE` the accumulator is the GHASH of that message. -/
def Obligations.StepKeepsTheAccumulatorOfAMessage : Prop :=
  ∀ (m : Message) (s t : State), TableMatches s.unit → AccumulatorOfMessage m s.unit → step s = .next t →
    AccumulatorOfMessage (m.after s t) t.unit

/-- The invariant holds after reset, of the empty message. -/
def Obligations.ResetMeetsTheAccumulatorOfAMessage : Prop :=
  AccumulatorOfMessage (Message.empty 0) State.reset.unit

/-! ### Functions and host sequences (41_ghash.md, 42_ctr.md, 43_tag.md, 45_gcm_sequences.md) -/

/-- R130. -/
def Obligations.EmptyMessageHashesToZero : Prop :=
  (∀ h : Block, ghash h [] [] = 0) ∧
  (∀ s t : State, Ready s → issue [commandOp .ghinit, commandOp .ghlen] s = .next t →
    t.unit.y = 0 ∧ t.unit.phase = .done)

/-- R129, first half, and R178: `ghash.msg A, C` computes `GHASH(H, A, C)` and does not fault. -/
def Obligations.GhashSequenceComputesGhash : Prop :=
  ∀ (a c : List Byte) (s : State), s.unit.hvalid = true → s.unit.err = .clear → TableMatches s.unit →
    8 * a.length < 2 ^ 64 → 8 * c.length < 2 ^ 64 →
    ∃ opa : Block,
      issue (ghashMsg a c) s = .next { s with unit := { s.unit with
        opa := opa, y := ghash s.unit.h a c, lena := bitLength a, lenc := bitLength c, phase := .done,
        tagok := false } } ∧
      (∀ p, (chunks a ++ chunks c).getLast? = some p → opa = blockOfBytes p) ∧
      (a = [] → c = [] → opa = s.unit.opa) ∧
      (ghashMsg a c).length = 2 * ((a.length + 15) / 16) + 2 * ((c.length + 15) / 16) + 2

/-- R141. -/
def Obligations.Inc32WrapsTheLowWord : Prop :=
  (∀ (p : BitVec 96) (c : BitVec 32), inc32 (p ++ c) = p ++ BitVec.ofNat 32 ((c.toNat + 1) % 2 ^ 32)) ∧
  (∀ (v : Block) (i : Nat), i < 12 → byte (inc32 v) i = byte v i) ∧
  inc32 0x00000000000000000000000000000001 = 0x00000000000000000000000000000002 ∧
  inc32 0x000000000000000000000000ffffffff = 0x00000000000000000000000000000000 ∧
  inc32 0xffffffffffffffffffffffffffffffff = 0xffffffffffffffffffffffff00000000 ∧
  inc32 0x000102030405060708090a0b00ffffff = 0x000102030405060708090a0b01000000

/-- R143, R142: counter mode is its own inverse, and keeps the length. -/
def Obligations.CounterModeIsItsOwnInverse : Prop :=
  ∀ (e : Block → Block) (start : Block) (d : List Byte),
    encryptCtr e start (encryptCtr e start d) = d ∧ (encryptCtr e start d).length = d.length

/-- R144: the counter comes back after 2^32 increments, and no sooner. -/
def Obligations.CounterWrapsAfterTwoToThe32 : Prop :=
  (∀ v : Block, inc32^[2 ^ 32] v = v) ∧ (∀ (v : Block) (n : Nat), 0 < n → n < 2 ^ 32 → inc32^[n] v ≠ v)

/-- R147, R179: `ctr.data S, D` returns `encrypt_ctr(S, D)`, advances `CB` by one for each chunk and does not fault. -/
def Obligations.CtrSequenceComputesEncryptCtr : Prop :=
  ∀ (start : Block) (d : List Byte) (s : State), s.unit.err = .clear →
    ∃ t : State, ctrData start d s = .next (t, encryptCtr s.cipherAt start d) ∧
      t.unit = { s.unit with
        opa := t.unit.opa, res := t.unit.res, cb := inc32^[(d.length + 15) / 16] start } ∧
      t.cipher = s.cipher ∧ t.inputs = s.inputs ∧
      (d = [] → t.unit = { s.unit with cb := start } ∧ t.replies = s.replies)

/-- R156: the procedure, byte by byte over the difference, and that as a function it is equality. -/
def Obligations.TagEqualIsEquality : Prop :=
  (∀ d : Block, differenceBytes d 0 = 0 ∧ ∀ i : Nat, differenceBytes d (i + 1) = differenceBytes d i ||| byte d i) ∧
  (∀ t t' : Block, tagEqual t t' = true ↔ differenceBytes (t ^^^ t') 16 = 0) ∧
  (∀ t t' : Block, tagEqual t t' = true ↔ t = t') ∧
  (∀ t t' : Block, t ≠ t' → ∃ i : Nat, i < 16 ∧ byte (t ^^^ t') i ≠ 0)

/-- R176, R5: the value of the pre-counter block, and its increment. -/
def Obligations.PreCounterBlock : Prop :=
  ∀ n : List Byte, n.length = 12 →
    blockBytes (preCounter n) = n ++ [0, 0, 0, 1] ∧ blockBytes (inc32 (preCounter n)) = n ++ [0, 0, 0, 2]

/-- R181, as a function: `c = encrypt_ctr(inc32(J0), P)`, `tag = GHASH(H, A, c) ^ E(J0)`, record `N || c || tag`; no
command faults, and `H`, `TBL`, `HVALID` are unchanged. -/
def Obligations.EncryptReturnsTheRecord : Prop :=
  ∀ (n p a : List Byte) (s : State), Ready s →
    (n.length ≠ 12 → gcmEnc n p a s = .next (s, .error .invalidNonceLength)) ∧
    (n.length = 12 → 8 * p.length < 2 ^ 64 → 8 * a.length < 2 ^ 64 →
      ∃ t : State,
        gcmEnc n p a s = .next (t, .ok (n ++ encryptCtr s.cipherAt (inc32 (preCounter n)) p ++
          blockBytes (gcmTag s.cipherAt (s.cipherAt 0) (preCounter n) a
            (encryptCtr s.cipherAt (inc32 (preCounter n)) p)))) ∧
        Ready t ∧ t.cipher = s.cipher ∧ t.unit.h = s.unit.h ∧ t.unit.tbl = s.unit.tbl)

/-- R182: what `gcm.dec` answers on a record `N || C || T`: the plaintext when `T` is the tag, the authentication error
when it is not, and `DataTooShort` below 28 bytes. On a mismatch the host has read one word, the `STATUS` that reports it,
and the cipher has been asked at `J0` alone: under any cipher that agrees there the call ends the same. So no keystream has
been applied to `C` and no plaintext byte read. That the host rejects on either of the rule's two conditions is the
model's choice (assumption log 9). -/
def Obligations.DecryptVerifiesBeforeDecrypting : Prop :=
  ∀ (n c t a : List Byte) (s : State), Ready s →
    (∀ record : List Byte, record.length < 28 → gcmDec record a s = .next (s, .error .dataTooShort)) ∧
    (n.length = 12 → t.length = 16 → 8 * c.length < 2 ^ 64 → 8 * a.length < 2 ^ 64 →
      (blockOfBytes t = gcmTag s.cipherAt (s.cipherAt 0) (preCounter n) a c →
        ∃ u : State, gcmDec (n ++ c ++ t) a s =
          .next (u, .ok (encryptCtr s.cipherAt (inc32 (preCounter n)) c)) ∧ Ready u ∧ u.unit.tagok = true) ∧
      (blockOfBytes t ≠ gcmTag s.cipherAt (s.cipherAt 0) (preCounter n) a c →
        ∃ u : State, gcmDec (n ++ c ++ t) a s = .next (u, .error .authenticationError) ∧ Ready u ∧
          u.unit.tagok = false ∧ u.unit.res = 0 ∧ u.unit.cb = preCounter n ∧
          u.replies = s.replies ++ [.bits32 0x00000607] ∧
          ∀ points : List (Block × Block),
            applyCipher points (preCounter n) = s.cipherAt (preCounter n) →
            gcmDec (n ++ c ++ t) a { s with cipher := points } =
              .next ({ u with cipher := points }, .error .authenticationError)))

/-- R188, properties 1 and 3: decrypting what was encrypted, from the state encryption left, gives the plaintext back;
the ciphertext part of the record has the plaintext's length. -/
def Obligations.DecryptUndoesEncrypt : Prop :=
  ∀ (n p a : List Byte) (s : State), Ready s → n.length = 12 → 8 * p.length < 2 ^ 64 → 8 * a.length < 2 ^ 64 →
    ∃ (record : List Byte) (t u : State),
      gcmEnc n p a s = .next (t, .ok record) ∧ record.length = 28 + p.length ∧
      (recordCiphertext record).length = p.length ∧ gcmDec record a t = .next (u, .ok p)

/-- R159, its exact forms, for lengths in the range of 41_ghash.md R122. With a non-zero subkey, changing one block of the
ciphertext or of the AAD changes the GHASH; with the subkey 0 every GHASH is 0. Of a record that `gcm.enc` made, `gcm.dec`
answers the authentication error when the tag is altered in any way, and, if `E(0)` is not 0, when one block of the
ciphertext or of the AAD is altered. -/
def Obligations.TamperingIsDetected : Prop :=
  (∀ (h : Block) (a c c' : List Byte), 8 * a.length < 2 ^ 64 → 8 * c.length < 2 ^ 64 → h ≠ 0 →
    DifferInOneBlock c c' → ghash h a c ≠ ghash h a c') ∧
  (∀ (h : Block) (a a' c : List Byte), 8 * a.length < 2 ^ 64 → 8 * c.length < 2 ^ 64 → h ≠ 0 →
    DifferInOneBlock a a' → ghash h a c ≠ ghash h a' c) ∧
  (∀ a c : List Byte, 8 * a.length < 2 ^ 64 → 8 * c.length < 2 ^ 64 → ghash 0 a c = 0) ∧
  (∀ (n p a : List Byte) (s : State), Ready s → n.length = 12 → 8 * p.length < 2 ^ 64 → 8 * a.length < 2 ^ 64 →
    ∃ (c tag : List Byte) (t : State),
      gcmEnc n p a s = .next (t, .ok (n ++ c ++ tag)) ∧ c.length = p.length ∧ tag.length = 16 ∧
      (∀ tag' : List Byte, tag'.length = 16 → tag' ≠ tag →
        ∃ u : State, gcmDec (n ++ c ++ tag') a t = .next (u, .error .authenticationError)) ∧
      (s.cipherAt 0 ≠ 0 → ∀ c' : List Byte, DifferInOneBlock c c' →
        ∃ u : State, gcmDec (n ++ c' ++ tag) a t = .next (u, .error .authenticationError)) ∧
      (s.cipherAt 0 ≠ 0 → ∀ a' : List Byte, DifferInOneBlock a a' →
        ∃ u : State, gcmDec (n ++ c ++ tag) a' t = .next (u, .error .authenticationError)))

/-- R188, properties 4, 5 and 7: `gcm.enc` and `gcm.dec` are functions of their arguments and `E`; the document's two
vectors (95_test_vectors.md T-SRC-1, T-SRC-2); and its scenario (T-SRC-3), for every nonce, under the cipher's value at 0
that its key gives (table E1), with the record of T-SEQ-1 for the nonce that vector chooses. -/
def Obligations.EngineIsDeterministicAndMeetsItsVectors : Prop :=
  (∀ (n p a : List Byte) (s s' : State), Ready s → Ready s' → (∀ v, s'.cipherAt v = s.cipherAt v) →
    8 * p.length < 2 ^ 64 → 8 * a.length < 2 ^ 64 →
    ∃ (r : Except HostError (List Byte)) (t t' : State),
      gcmEnc n p a s = .next (t, r) ∧ gcmEnc n p a s' = .next (t', r)) ∧
  (∀ (record a : List Byte) (s s' : State), Ready s → Ready s' → (∀ v, s'.cipherAt v = s.cipherAt v) →
    8 * (recordCiphertext record).length < 2 ^ 64 → 8 * a.length < 2 ^ 64 →
    ∃ (r : Except HostError (List Byte)) (t t' : State),
      gcmDec record a s = .next (t, r) ∧ gcmDec record a s' = .next (t', r)) ∧
  (∀ s : State, Ready s → s.cipherAt 0 = nistH → s.cipherAt 1 = 0x58e2fccefa7e3061367f1d57a4e7455a →
    (∃ t : State, gcmEnc (List.replicate 12 0) [] [] s =
      .next (t, .ok (List.replicate 12 0 ++ blockBytes 0x58e2fccefa7e3061367f1d57a4e7455a))) ∧
    (s.cipherAt 2 = 0x0388dace60b6a392f328c2b971b2fe78 →
      ∃ t : State, gcmEnc (List.replicate 12 0) (List.replicate 16 0) [] s =
        .next (t, .ok (List.replicate 12 0 ++ blockBytes 0x0388dace60b6a392f328c2b971b2fe78 ++
          blockBytes 0xab6e47d42cec13bdf53a67b21257bddf)))) ∧
  (∀ (n : List Byte) (s : State), Ready s → n.length = 12 → s.cipherAt 0 = 0xfde4fbae4a09e020eff722969f83832b →
    ∃ (record : List Byte) (t u v : State),
      gcmEnc n helloGcm ctx s = .next (t, .ok record) ∧
      gcmDec record ctx t = .next (u, .ok helloGcm) ∧
      gcmDec record wrong t = .next (v, .error .authenticationError) ∧
      (n = [0x00, 0x01, 0x02, 0x03, 0x04, 0x05, 0x06, 0x07, 0x08, 0x09, 0x0a, 0x0b] →
        s.cipherAt 0x000102030405060708090a0b00000001 = 0x8f938f40f877e0c4af37d0fe9af03305 →
        s.cipherAt 0x000102030405060708090a0b00000002 = 0x2bd537c4ae978f609f38299f108d41ed →
        record = n ++ [0x63, 0xb0, 0x5b, 0xa8, 0xc1, 0xb7, 0xc8, 0x23, 0xd2] ++
          blockBytes 0x38644d7db144527078bea5faed181706))

end
end

