-- ==== Sys2Proof/Laws/Field.lean ====
section
/-! SUPPORT. `mulx`, the loop of `multiply`, the table and the loop of `tblmul`, one step at a time (spec 40_gf128.md). -/

namespace Sys2Proof.Machine

/-- R92: `mulx` is linear. -/
theorem mulx_xor (a b : Block) : mulx (a ^^^ b) = mulx a ^^^ mulx b := by
  unfold mulx
  rw [BitVec.ushiftRight_xor_distrib, BitVec.getLsbD_xor]
  cases a.getLsbD 0 <;> cases b.getLsbD 0 <;>
    simp only [Bool.false_eq_true, if_true, if_false, Bool.xor_false, Bool.xor_true, Bool.not_false, Bool.not_true,
      BitVec.xor_assoc]
  all_goals ext i hi; simp [Bool.xor_comm]

/-- R92: where no bit falls off, `mulx` is a shift. -/
theorem mulx_even (z : Block) (h : z.getLsbD 0 = false) : mulx z = z >>> 1 := by
  unfold mulx; rw [h]; simp

/-- R93: one pass of the loop, on `Z`. -/
theorem multiplySteps_fst (a b : Block) (i : Nat) : (multiplySteps a b (i + 1)).1 =
    if a.getLsbD (127 - i) then (multiplySteps a b i).1 ^^^ (multiplySteps a b i).2 else (multiplySteps a b i).1 := rfl

/-- R93: one pass of the loop, on `V`. -/
theorem multiplySteps_snd (a b : Block) (i : Nat) : (multiplySteps a b (i + 1)).2 = mulx (multiplySteps a b i).2 := rfl

/-- R95: an entry of the built table. -/
theorem lookup_buildTable (h : Block) (n : Nibble) : lookup (buildTable h) n = tableEntry h n := by
  unfold lookup buildTable
  rw [Vector.get_eq_getElem, Vector.getElem_ofFn]

/-- R97: one pass of the loop; `mulx4` of zero is zero, so the first pass needs no case of its own. -/
theorem tblmulSteps_succ (t : Vector Block 16) (x : Block) (k : Nat) :
    tblmulSteps t x (k + 1) = mulx4 (tblmulSteps t x k) ^^^ lookup t (x.extractLsb' (4 * k) 4) := by
  show (if k = 0 then 0 else mulx4 (tblmulSteps t x k)) ^^^ _ = _
  split
  · rename_i h; subst h
    rw [show mulx4 (tblmulSteps t x 0) = 0 from (by decide +kernel : mulx4 0 = 0)]
  · rfl

end Sys2Proof.Machine
end

