-- ==== Sys2Proof/Laws/Operands.lean ====
section
/-! SUPPORT. Bytes, blocks, masks and pieces (spec 00_scope.md R5, R7; 41_ghash.md R121), and the length
block (R122). -/

namespace Sys2Proof.Machine

/-- A block is determined by its sixteen bytes. -/
theorem block_ext {a b : Block} (h : ∀ i, i < 16 → byte a i = byte b i) : a = b := by
  ext k hk
  have := congrArg (fun v : Byte => v.getLsbD (k % 8)) (h (15 - k / 8) (by omega))
  simp only [byte, BitVec.getLsbD_setWidth, BitVec.getLsbD_ushiftRight, show k % 8 < 8 by omega, decide_true,
    Bool.true_and, show 8 * (15 - (15 - k / 8)) + k % 8 = k by omega] at this
  simpa [BitVec.getLsbD_eq_getElem hk] using this

theorem byte_xor (a b : Block) (i : Nat) : byte (a ^^^ b) i = byte a i ^^^ byte b i := by
  unfold byte; apply BitVec.eq_of_getLsbD_eq; intro j hj; simp [hj]

/-- R7: the bits of the mask of the first `nb` bytes. -/
theorem mask_bit (nb i : Nat) (hn : nb ≤ 16) (hi : i < 128) : (mask nb).getLsbD i = decide (8 * (16 - nb) ≤ i) := by
  have h : ∀ nb : Fin 17, ∀ i : Fin 128, (mask nb.val).getLsbD i.val = decide (8 * (16 - nb.val) ≤ i.val) := by
    decide +kernel
  exact h ⟨nb, by omega⟩ ⟨i, hi⟩

theorem orBytes_bit (bs : List Byte) (n : Nat) (hn : n ≤ 16) (k : Nat) (hk : k < 128) :
    ((List.range n).foldl (fun v i => v ||| ((bs.getD i 0).setWidth 128 <<< (8 * (15 - i)))) (0 : Block)).getLsbD k =
      (decide (15 - k / 8 < n) && (bs.getD (15 - k / 8) 0).getLsbD (k % 8)) := by
  induction n with
  | zero => simp
  | succ n ih =>
    rw [List.range_succ, List.foldl_append, List.foldl_cons, List.foldl_nil, BitVec.getLsbD_or, ih (by omega),
      BitVec.getLsbD_shiftLeft, BitVec.getLsbD_setWidth]
    by_cases h : 15 - k / 8 = n
    · have e1 : ¬ k < 8 * (15 - n) := by omega
      have e2 : k - 8 * (15 - n) = k % 8 := by omega
      rw [h]; simp [hk, e1, e2]; omega
    · have e : (15 - k / 8 < n + 1) ↔ (15 - k / 8 < n) := by omega
      by_cases h2 : k < 8 * (15 - n)
      · simp [h2, e]
      · rw [BitVec.getLsbD_of_ge (bs.getD n 0) _ (by omega)]; simp [e]

/-- R5: the bits of the value of a byte string. -/
theorem blockOfBytes_bit (bs : List Byte) (k : Nat) (hk : k < 128) :
    (blockOfBytes bs).getLsbD k = (bs.getD (15 - k / 8) 0).getLsbD (k % 8) := by
  unfold blockOfBytes; rw [orBytes_bit bs 16 le_rfl k hk]; simp; omega

/-- R5: the bytes of the value of a byte string. -/
theorem byte_blockOfBytes (bs : List Byte) (i : Nat) (hi : i < 16) : byte (blockOfBytes bs) i = bs.getD i 0 := by
  apply BitVec.eq_of_getLsbD_eq; intro j hj
  unfold byte
  rw [BitVec.getLsbD_setWidth, BitVec.getLsbD_ushiftRight, blockOfBytes_bit _ _ (by omega),
    show 15 - (8 * (15 - i) + j) / 8 = i by omega, show (8 * (15 - i) + j) % 8 = j by omega]
  simp [hj]

theorem blockBytes_length (v : Block) : (blockBytes v).length = 16 := by simp [blockBytes]

theorem blockBytes_getD (v : Block) (i : Nat) (hi : i < 16) : (blockBytes v).getD i 0 = byte v i := by
  simp [blockBytes, hi, List.getD_eq_getElem?_getD]

theorem blockOfBytes_blockBytes (v : Block) : blockOfBytes (blockBytes v) = v := by
  apply block_ext; intro i hi; rw [byte_blockOfBytes _ _ hi, blockBytes_getD _ _ hi]

/-! ### Pieces -/

theorem chunks_nil : chunks [] = [] := rfl

theorem chunks_length (d : List Byte) : (chunks d).length = (d.length + 15) / 16 := by simp [chunks]

/-- The last piece: appended to whole blocks. -/
theorem chunks_append (a p : List Byte) (ha : a.length % 16 = 0) (h0 : 0 < p.length) (h1 : p.length ≤ 16) :
    chunks (a ++ p) = chunks a ++ [p] := by
  unfold chunks
  have e1 : ((a ++ p).length + 15) / 16 = a.length / 16 + 1 := by simp; omega
  have e2 : (a.length + 15) / 16 = a.length / 16 := by omega
  rw [e1, e2, List.range_succ, List.map_append]
  congr 1
  · apply List.map_congr_left
    intro j hj
    simp at hj
    rw [List.drop_append_of_le_length (by omega), List.take_append_of_le_length (by simp; omega)]
  · simp [show 16 * (a.length / 16) = a.length by omega, List.take_of_length_le h1]

/-- The first piece: a whole block put before. -/
theorem chunks_cons (p d : List Byte) (h : p.length = 16) : chunks (p ++ d) = p :: chunks d := by
  unfold chunks
  have e1 : ((p ++ d).length + 15) / 16 = (d.length + 15) / 16 + 1 := by simp; omega
  rw [e1, List.range_succ_eq_map, List.map_cons, List.map_map]
  congr 1
  · simp [← h]
  · apply List.map_congr_left
    intro j hj
    simp only [Function.comp, List.drop_append]
    rw [List.drop_of_length_le (by omega)]; simp [show 16 * (j + 1) - p.length = 16 * j by omega]

theorem chunks_short (d : List Byte) (h0 : 0 < d.length) (h1 : d.length ≤ 16) : chunks d = [d] := by
  simpa [chunks] using chunks_append [] d rfl h0 h1

/-- Induction over a byte string, block by block from the front. -/
theorem chunk_induction (P : List Byte → Prop) (nil : P []) (short : ∀ p : List Byte, 0 < p.length → p.length < 16 → P p)
    (whole : ∀ p d : List Byte, p.length = 16 → P d → P (p ++ d)) : ∀ d, P d := by
  have h : ∀ n, ∀ d : List Byte, d.length ≤ n → P d := by
    intro n; induction n with
    | zero => intro d hd; have := List.length_eq_zero_iff.1 (show d.length = 0 by omega); rw [this]; exact nil
    | succ n ih =>
      intro d hd
      by_cases hz : d.length = 0
      · rw [List.length_eq_zero_iff.1 hz]; exact nil
      by_cases hs : d.length < 16
      · exact short d (by omega) hs
      · have := whole (d.take 16) (d.drop 16) (by simp; omega) (ih _ (by simp; omega))
        rwa [List.take_append_drop] at this
  intro d; exact h _ d le_rfl

/-! ### The length block -/

/-- R122: in its range the field is the length in bits. -/
theorem bitLength_toNat (d : List Byte) (h : 8 * d.length < 2 ^ 64) : (bitLength d).toNat = 8 * d.length := by
  unfold bitLength; rw [BitVec.toNat_ofNat, Nat.mod_eq_of_lt h]

/-- R122: in its range the last block is `len_block` of the two lengths. -/
theorem messageLengthBlock_of_lt {a c : List Byte} (ha : 8 * a.length < 2 ^ 64) (hc : 8 * c.length < 2 ^ 64) :
    messageLengthBlock a c = lenBlock (bitLength a) (bitLength c) := if_pos ⟨ha, hc⟩

/-- R120: the last step of GHASH, for lengths in the range of R122. -/
theorem ghash_of_lt (h : Block) {a c : List Byte} (ha : 8 * a.length < 2 ^ 64) (hc : 8 * c.length < 2 ^ 64) :
    ghash h a c = ghashStep h (ghashBlocks h (ghashBlocks h 0 (padBlocks a)) (padBlocks c))
      (lenBlock (bitLength a) (bitLength c)) := by
  unfold ghash; rw [messageLengthBlock_of_lt ha hc]

end Sys2Proof.Machine
end

