-- ==== Sys2Proof/Laws/Ops.lean ====
section
/-! SUPPORT. For each shared operation, what it can do, said once; and the inversion of a step. -/

namespace Sys2Proof.Machine

/-! ### Faults and checks -/

/-- A raised fault either records its code, and nothing else, or finds the unit already faulted. -/
theorem raise_cases (e : ErrCode) (u : GhctrUnit) :
    (u.err = .clear ∧ raise e u = { u with err := e }) ∨ (u.err ≠ .clear ∧ raise e u = u) := by
  by_cases h : u.err = .clear
  · exact .inl ⟨h, if_pos h⟩
  · exact .inr ⟨h, if_neg h⟩

theorem unlessFaulted_clear {u : GhctrUnit} (k : GhctrUnit) (h : u.err = .clear) : unlessFaulted u k = k := if_pos h

theorem unlessFaulted_faulted {u : GhctrUnit} (k : GhctrUnit) (h : u.err ≠ .clear) : unlessFaulted u k = u := if_neg h

theorem requireElse_pass {c : Bool} (e : ErrCode) (u k : GhctrUnit) (h : c = true) : requireElse c e u k = k := if_pos h

theorem requireElse_fail {c : Bool} (e : ErrCode) (u k : GhctrUnit) (h : c = false) :
    requireElse c e u k = raise e u := by
  rw [requireElse, h]; rfl

/-! ### The conditions, as propositions -/

theorem countLegal_iff (nb : Count) : countLegal nb = true ↔ 1 ≤ nb.toNat ∧ nb.toNat ≤ 16 := by simp [countLegal]

theorem subkeyLoadable_iff (u : GhctrUnit) : subkeyLoadable u = true ↔ u.phase = .idle ∨ u.phase = .done := by
  simp [subkeyLoadable]

theorem messageOpen_iff (u : GhctrUnit) : messageOpen u = true ↔ u.phase = .aad ∨ u.phase = .ct := by
  simp [messageOpen]

theorem aadAllowed_iff (u : GhctrUnit) : aadAllowed u = true ↔ u.phase = .aad ∧ u.lena.toNat % 128 = 0 := by
  simp [aadAllowed, stringOpen]

theorem ctAllowed_iff (u : GhctrUnit) :
    ctAllowed u = true ↔ (u.phase = .aad ∨ u.phase = .ct) ∧ u.lenc.toNat % 128 = 0 := by
  simp [ctAllowed, stringOpen, messageOpen]

theorem tagAllowed_iff (u : GhctrUnit) : tagAllowed u = true ↔ u.phase = .done := by simp [tagAllowed]

theorem lengthFits_iff (bits : BitCount) (nb : Count) :
    lengthFits bits nb = true ↔ bits.toNat + 8 * nb.toNat ≤ 2 ^ 64 - 1 := by
  simp [lengthFits]

/-- `STATUS` is a matter of the four flag fields alone. -/
theorem statusWord_congr {u v : GhctrUnit} (h1 : u.hvalid = v.hvalid) (h2 : u.phase = v.phase)
    (h3 : u.tagok = v.tagok) (h4 : u.err = v.err) : statusWord u = statusWord v := by
  simp [statusWord, h1, h2, h3, h4]

/-! ### No operation stops; what each leaves alone -/

/-- A command answers a next state, in which only the unit can have changed. -/
theorem exec_next (i : Instr) (s : State) : ∃ u, exec i s = .next { s with unit := u } := by
  cases i <;> exact ⟨_, rfl⟩

theorem executeWord_next (w : Word) (s : State) : ∃ u, executeWord w s = .next { s with unit := u } := by
  unfold executeWord
  split; · exact exec_next _ _
  split; · exact exec_next _ _
  split; · exact ⟨_, rfl⟩
  split; · exact exec_next _ _
  · exact ⟨_, rfl⟩

/-- A host operation answers a next state, in which the host's queue and the cipher are as they were. -/
theorem performOp_next (o : HostOp) (s : State) : ∃ u r, performOp o s = .next { s with unit := u, replies := r } := by
  cases o with
  | read r => exact ⟨_, _, rfl⟩
  | write w =>
    cases w with
    | cmd w => obtain ⟨u, h⟩ := executeWord_next w s; exact ⟨u, _, h⟩
    | _ => exact ⟨_, _, rfl⟩

/-- A read changes the unit at most by the access fault. -/
theorem readReg_unit (r : Reg) (u : GhctrUnit) : (readReg r u).1 = u ∨ (readReg r u).1 = raise .access u := by
  cases r <;> first | exact .inl rfl | exact .inr rfl

/-- What a register write can do to the unit. -/
theorem writeReg_cases (w : RegWrite) (u : GhctrUnit) :
    (∃ v, w = .opa v ∧ writeReg w u = { u with opa := v }) ∨ (∃ v, w = .opb v ∧ writeReg w u = { u with opb := v }) ∨
      (∃ v, w = .cb v ∧ writeReg w u = { u with cb := v }) ∨ (∃ v, w = .cmd v ∧ writeReg w u = u) ∨
      writeReg w u = raise .access u := by
  cases w with
  | opa v => exact .inl ⟨v, rfl, rfl⟩
  | opb v => exact .inr (.inl ⟨v, rfl, rfl⟩)
  | cb v => exact .inr (.inr (.inl ⟨v, rfl, rfl⟩))
  | cmd v => exact .inr (.inr (.inr (.inl ⟨v, rfl, rfl⟩)))
  | _ => exact .inr (.inr (.inr (.inr rfl)))

/-! ### The step, inverted -/

/-- What a step can do to the unit: nothing, a reset, an access or opcode fault, a register write of the host, or a
command on the same unit. -/
theorem step_cases {s t : State} (h : step s = .next t) :
    t.unit = s.unit ∨ t.unit = GhctrUnit.reset ∨ t.unit = raise .access s.unit ∨ t.unit = raise .opcode s.unit ∨
      (∃ v rest, s.inputs = .op (.write (.opa v)) :: rest ∧ t.unit = { s.unit with opa := v }) ∨
      (∃ v rest, s.inputs = .op (.write (.opb v)) :: rest ∧ t.unit = { s.unit with opb := v }) ∨
      (∃ v rest, s.inputs = .op (.write (.cb v)) :: rest ∧ t.unit = { s.unit with cb := v }) ∨
      (∃ w i rest, s.inputs = .op (.write (.cmd w)) :: rest ∧ exec i { s with inputs := rest } = .next t) := by
  unfold step stepInput at h
  split at h
  · cases h; exact .inl rfl
  rename_i i rest hin
  cases i with
  | hardwareReset => cases h; exact .inr (.inl rfl)
  | op o =>
    cases o with
    | read r =>
      cases h
      rcases readReg_unit r s.unit with hr | hr
      · exact .inl hr
      · exact .inr (.inr (.inl hr))
    | write w =>
      cases w with
      | cmd w =>
        have hx : ∀ i, exec i { s with inputs := rest } = .next t →
            ∃ w' i rest', s.inputs = .op (.write (.cmd w')) :: rest' ∧ exec i { s with inputs := rest' } = .next t :=
          fun i hi => ⟨w, i, rest, hin, hi⟩
        simp only [acceptInput, performOp, executeWord] at h
        split at h; · exact .inr (.inr (.inr (.inr (.inr (.inr (.inr (hx _ h)))))))
        split at h; · exact .inr (.inr (.inr (.inr (.inr (.inr (.inr (hx _ h)))))))
        split at h; · cases h; exact .inl rfl
        split at h; · exact .inr (.inr (.inr (.inr (.inr (.inr (.inr (hx _ h)))))))
        · cases h; exact .inr (.inr (.inr (.inl rfl)))
      | opa v => cases h; exact .inr (.inr (.inr (.inr (.inl ⟨v, rest, hin, rfl⟩))))
      | opb v => cases h; exact .inr (.inr (.inr (.inr (.inr (.inl ⟨v, rest, hin, rfl⟩)))))
      | cb v => cases h; exact .inr (.inr (.inr (.inr (.inr (.inr (.inl ⟨v, rest, hin, rfl⟩))))))
      | status v => cases h; exact .inr (.inr (.inl rfl))
      | res v => cases h; exact .inr (.inr (.inl rfl))
      | y v => cases h; exact .inr (.inr (.inl rfl))
      | lena v => cases h; exact .inr (.inr (.inl rfl))
      | lenc v => cases h; exact .inr (.inr (.inl rfl))
      | unmapped k => cases h; exact .inr (.inr (.inl rfl))

/-! ### Running -/

theorem run_next (M : Host.Core) {k : Nat} {s t : M.State} (h : M.step s = .next t) : M.run (k + 1) s = M.run k t := by
  simp only [Host.Core.run, h]

/-- A run goes on from the state a step answers. -/
theorem core_run_next {k : Nat} {s t : State} (h : step s = .next t) :
    Sys2Proof.core.run (k + 1) s = Sys2Proof.core.run k t :=
  run_next Sys2Proof.core (s := s) (t := t) h

end Sys2Proof.Machine
end

