-- ==== Sys2Proof/Laws/PerInstr.lean ====
section
/-! SUPPORT. A fact about each command's word: it fits the command's row of the opcode map (spec 30_encoding.md R74). -/

namespace Sys2Proof.Laws.FitsRow

/-- R74: the word of `i` is selected by the row of `i`, `w & mask = match`. -/
def Statement (i : Instr) : Prop := encode i &&& i.rowMask = i.rowMatch

/-- A format-N word with its `NB` bits masked out is its opcode. -/
theorem count_masked (opc : BitVec 8) (nb : Count) : commandWord opc nb &&& 0xFFFFE0FF = opc.setWidth 32 := by
  have h : ∀ nb : Count, (nb.setWidth 32 <<< 8 : Word) &&& 0xFFFFE0FF = 0 := by decide
  have h' : ∀ opc : BitVec 8, (opc.setWidth 32 : Word) &&& 0xFFFFE0FF = opc.setWidth 32 := by decide
  have hd : ∀ a b c : Word, (a ||| b) &&& c = a &&& c ||| b &&& c := by
    intro a b c; ext j hj; simp [Bool.and_or_distrib_right]
  rw [commandWord, hd, h, h']
  exact BitVec.zero_or

theorem nop : Statement .nop := rfl
theorem gfmul : Statement .gfmul := rfl
theorem hload : Statement .hload := rfl
theorem hkey : Statement .hkey := rfl
theorem hmul : Statement .hmul := rfl
theorem ghinit : Statement .ghinit := rfl
theorem ghaad (nb : Count) : Statement (.ghaad nb) := count_masked 0x11 nb
theorem ghct (nb : Count) : Statement (.ghct nb) := count_masked 0x12 nb
theorem ghlen : Statement .ghlen := rfl
theorem inc32 : Statement .inc32 := rfl
theorem ctrxor (nb : Count) : Statement (.ctrxor nb) := count_masked 0x21 nb
theorem taggen : Statement .taggen := rfl
theorem tagcmp : Statement .tagcmp := rfl
theorem clrerr : Statement .clrerr := rfl
theorem sreset : Statement .sreset := rfl

end Sys2Proof.Laws.FitsRow
end

