-- ==== Sys2Proof/Laws/Safety.lean ====
section
/-! SUPPORT. What the accumulator invariant depends on (spec 41_ghash.md R129). -/

namespace Sys2Proof.Machine

/-- The invariant reads the accumulator, the counters and the phase, and `H` only while a message is open. -/
theorem accumulatorOfMessage_congr {m : Message} {u v : GhctrUnit} (h : AccumulatorOfMessage m u) (hy : v.y = u.y)
    (ha : v.lena = u.lena) (hc : v.lenc = u.lenc) (hp : v.phase = u.phase)
    (hh : v.h = u.h ∨ u.phase = .idle ∨ u.phase = .done) : AccumulatorOfMessage m v := by
  refine ⟨h.aad_fits, h.ciphertext_fits, ha.trans h.aad_counted, hc.trans h.ciphertext_counted, ?_⟩
  have e := h.accumulated
  rw [hp, hy]
  rcases hh with hh | hh | hh
  · rw [hh]; exact e
  · rw [hh] at e ⊢; exact e
  · rw [hh] at e ⊢; exact e

/-- Recording a fault keeps the invariant, for the same message. -/
theorem accumulatorOfMessage_raise {m : Message} {u : GhctrUnit} (e : ErrCode) (h : AccumulatorOfMessage m u) :
    AccumulatorOfMessage m (raise e u) := by
  rcases raise_cases e u with ⟨-, hr⟩ | ⟨-, hr⟩ <;> rw [hr]
  · exact accumulatorOfMessage_congr h rfl rfl rfl rfl (.inl rfl)
  · exact h

end Sys2Proof.Machine
end

