-- ==== Sys2Proof/Laws/State.lean ====
section
/-! SUPPORT. One lemma per component per named update of the unit and of the state, so that no proof unfolds a record
update. -/

namespace Sys2Proof.Machine

/-! ### `raise`: `ERR` alone can change (spec 60_exceptions.md R204) -/

@[simp] theorem raise_opa (e : ErrCode) (u : GhctrUnit) : (raise e u).opa = u.opa := by unfold raise; split <;> rfl
@[simp] theorem raise_opb (e : ErrCode) (u : GhctrUnit) : (raise e u).opb = u.opb := by unfold raise; split <;> rfl
@[simp] theorem raise_res (e : ErrCode) (u : GhctrUnit) : (raise e u).res = u.res := by unfold raise; split <;> rfl
@[simp] theorem raise_h (e : ErrCode) (u : GhctrUnit) : (raise e u).h = u.h := by unfold raise; split <;> rfl
@[simp] theorem raise_tbl (e : ErrCode) (u : GhctrUnit) : (raise e u).tbl = u.tbl := by unfold raise; split <;> rfl
@[simp] theorem raise_y (e : ErrCode) (u : GhctrUnit) : (raise e u).y = u.y := by unfold raise; split <;> rfl
@[simp] theorem raise_cb (e : ErrCode) (u : GhctrUnit) : (raise e u).cb = u.cb := by unfold raise; split <;> rfl
@[simp] theorem raise_lena (e : ErrCode) (u : GhctrUnit) : (raise e u).lena = u.lena := by unfold raise; split <;> rfl
@[simp] theorem raise_lenc (e : ErrCode) (u : GhctrUnit) : (raise e u).lenc = u.lenc := by unfold raise; split <;> rfl
@[simp] theorem raise_hvalid (e : ErrCode) (u : GhctrUnit) : (raise e u).hvalid = u.hvalid := by unfold raise; split <;> rfl
@[simp] theorem raise_phase (e : ErrCode) (u : GhctrUnit) : (raise e u).phase = u.phase := by unfold raise; split <;> rfl
@[simp] theorem raise_tagok (e : ErrCode) (u : GhctrUnit) : (raise e u).tagok = u.tagok := by unfold raise; split <;> rfl

/-! ### `acknowledge`: `ERR` is cleared (44_control.md R166) -/

@[simp] theorem acknowledge_err (u : GhctrUnit) : (acknowledge u).err = .clear := rfl
@[simp] theorem acknowledge_opa (u : GhctrUnit) : (acknowledge u).opa = u.opa := rfl
@[simp] theorem acknowledge_opb (u : GhctrUnit) : (acknowledge u).opb = u.opb := rfl
@[simp] theorem acknowledge_res (u : GhctrUnit) : (acknowledge u).res = u.res := rfl
@[simp] theorem acknowledge_h (u : GhctrUnit) : (acknowledge u).h = u.h := rfl
@[simp] theorem acknowledge_tbl (u : GhctrUnit) : (acknowledge u).tbl = u.tbl := rfl
@[simp] theorem acknowledge_y (u : GhctrUnit) : (acknowledge u).y = u.y := rfl
@[simp] theorem acknowledge_cb (u : GhctrUnit) : (acknowledge u).cb = u.cb := rfl
@[simp] theorem acknowledge_lena (u : GhctrUnit) : (acknowledge u).lena = u.lena := rfl
@[simp] theorem acknowledge_lenc (u : GhctrUnit) : (acknowledge u).lenc = u.lenc := rfl
@[simp] theorem acknowledge_hvalid (u : GhctrUnit) : (acknowledge u).hvalid = u.hvalid := rfl
@[simp] theorem acknowledge_phase (u : GhctrUnit) : (acknowledge u).phase = u.phase := rfl
@[simp] theorem acknowledge_tagok (u : GhctrUnit) : (acknowledge u).tagok = u.tagok := rfl

/-! ### `loadSubkey`: `H`, `TBL`, `HVALID` are written (40_gf128.md R101, R102) -/

@[simp] theorem loadSubkey_opa (k : Block) (u : GhctrUnit) : (loadSubkey k u).opa = u.opa := rfl
@[simp] theorem loadSubkey_opb (k : Block) (u : GhctrUnit) : (loadSubkey k u).opb = u.opb := rfl
@[simp] theorem loadSubkey_res (k : Block) (u : GhctrUnit) : (loadSubkey k u).res = u.res := rfl
@[simp] theorem loadSubkey_h (k : Block) (u : GhctrUnit) : (loadSubkey k u).h = k := rfl
@[simp] theorem loadSubkey_tbl (k : Block) (u : GhctrUnit) : (loadSubkey k u).tbl = buildTable k := rfl
@[simp] theorem loadSubkey_y (k : Block) (u : GhctrUnit) : (loadSubkey k u).y = u.y := rfl
@[simp] theorem loadSubkey_cb (k : Block) (u : GhctrUnit) : (loadSubkey k u).cb = u.cb := rfl
@[simp] theorem loadSubkey_lena (k : Block) (u : GhctrUnit) : (loadSubkey k u).lena = u.lena := rfl
@[simp] theorem loadSubkey_lenc (k : Block) (u : GhctrUnit) : (loadSubkey k u).lenc = u.lenc := rfl
@[simp] theorem loadSubkey_hvalid (k : Block) (u : GhctrUnit) : (loadSubkey k u).hvalid = true := rfl
@[simp] theorem loadSubkey_phase (k : Block) (u : GhctrUnit) : (loadSubkey k u).phase = u.phase := rfl
@[simp] theorem loadSubkey_tagok (k : Block) (u : GhctrUnit) : (loadSubkey k u).tagok = u.tagok := rfl
@[simp] theorem loadSubkey_err (k : Block) (u : GhctrUnit) : (loadSubkey k u).err = u.err := rfl

/-! ### `absorb`: `Y` is written (41_ghash.md R123) -/

@[simp] theorem absorb_opa (b : Block) (u : GhctrUnit) : (absorb b u).opa = u.opa := rfl
@[simp] theorem absorb_opb (b : Block) (u : GhctrUnit) : (absorb b u).opb = u.opb := rfl
@[simp] theorem absorb_res (b : Block) (u : GhctrUnit) : (absorb b u).res = u.res := rfl
@[simp] theorem absorb_h (b : Block) (u : GhctrUnit) : (absorb b u).h = u.h := rfl
@[simp] theorem absorb_tbl (b : Block) (u : GhctrUnit) : (absorb b u).tbl = u.tbl := rfl
@[simp] theorem absorb_y (b : Block) (u : GhctrUnit) : (absorb b u).y = tblmul u.tbl (u.y ^^^ b) := rfl
@[simp] theorem absorb_cb (b : Block) (u : GhctrUnit) : (absorb b u).cb = u.cb := rfl
@[simp] theorem absorb_lena (b : Block) (u : GhctrUnit) : (absorb b u).lena = u.lena := rfl
@[simp] theorem absorb_lenc (b : Block) (u : GhctrUnit) : (absorb b u).lenc = u.lenc := rfl
@[simp] theorem absorb_hvalid (b : Block) (u : GhctrUnit) : (absorb b u).hvalid = u.hvalid := rfl
@[simp] theorem absorb_phase (b : Block) (u : GhctrUnit) : (absorb b u).phase = u.phase := rfl
@[simp] theorem absorb_tagok (b : Block) (u : GhctrUnit) : (absorb b u).tagok = u.tagok := rfl
@[simp] theorem absorb_err (b : Block) (u : GhctrUnit) : (absorb b u).err = u.err := rfl

/-! ### `resetUnit` and `withFetchWord`, on the whole state -/

@[simp] theorem resetUnit_unit (s : State) : (resetUnit s).unit = GhctrUnit.reset := rfl
@[simp] theorem resetUnit_cipher (s : State) : (resetUnit s).cipher = s.cipher := rfl
@[simp] theorem resetUnit_inputs (s : State) : (resetUnit s).inputs = s.inputs := rfl
@[simp] theorem resetUnit_replies (s : State) : (resetUnit s).replies = s.replies := rfl
@[simp] theorem withFetchWord_unit (s : State) (nbits w : Nat) : (s.withFetchWord nbits w).unit = s.unit := rfl
@[simp] theorem withFetchWord_cipher (s : State) (nbits w : Nat) : (s.withFetchWord nbits w).cipher = s.cipher := rfl
@[simp] theorem withFetchWord_replies (s : State) (nbits w : Nat) : (s.withFetchWord nbits w).replies = s.replies := rfl
@[simp] theorem withFetchWord_inputs (s : State) (nbits w : Nat) :
    (s.withFetchWord nbits w).inputs = tableInput nbits w :: s.inputs := rfl

/-- The cipher of a state is a matter of its known points alone (00_scope.md R9). -/
theorem cipherAt_congr {s t : State} (h : t.cipher = s.cipher) : t.cipherAt = s.cipherAt := by
  funext v; unfold State.cipherAt; rw [h]

end Sys2Proof.Machine
end

