-- ==== Sys2Proof/Tests/Slice0.lean ====
section
/-! SUPPORT. Tests. Expected values are the spec's: words by hand from 30_encoding.md R71 and R74, results from
95_test_vectors.md (the vector is named at each test). Then, for each statement with hypotheses, a state and operands
that meet them. -/

namespace Sys2Proof.Tests

set_option Elab.async false

open Sys2Proof.Machine Sys2Proof.Statements

/-! ### Well-formedness refuses (R73) -/

theorem test_wellFormed_ghaad_zero : (Instr.ghaad 0).wellFormed = false := by decide
theorem test_wellFormed_ghaad_seventeen : (Instr.ghaad 17).wellFormed = false := by decide
theorem test_wellFormed_ghct_zero : (Instr.ghct 0).wellFormed = false := by decide
theorem test_wellFormed_ghct_thirty_one : (Instr.ghct 31).wellFormed = false := by decide
theorem test_wellFormed_ctrxor_zero : (Instr.ctrxor 0).wellFormed = false := by decide
theorem test_wellFormed_ctrxor_seventeen : (Instr.ctrxor 17).wellFormed = false := by decide
theorem test_wellFormed_ends : (Instr.ghaad 1).wellFormed = true ∧ (Instr.ctrxor 16).wellFormed = true := by decide
theorem test_line_rd_cmd : (AsmLine.rd .cmd).wellFormed = false := by decide
theorem test_line_rd_unmapped : (AsmLine.rd (.unmapped 0)).wellFormed = false := by decide
theorem test_line_command : (AsmLine.command (.ghct 0)).wellFormed = false := by decide

/-! ### Decoding: a word written out for every command, `NB` in bits 12:8, `OPC` in bits 7:0 -/

theorem test_decode_nop : decode 0b00000000000000000000000000000000 = .ok .nop := by decide
theorem test_decode_gfmul : decode 0b00000000000000000000000000000001 = .ok .gfmul := by decide
theorem test_decode_hload : decode 0b00000000000000000000000000000010 = .ok .hload := by decide
theorem test_decode_hkey : decode 0b00000000000000000000000000000011 = .ok .hkey := by decide
theorem test_decode_hmul : decode 0b00000000000000000000000000000100 = .ok .hmul := by decide
theorem test_decode_ghinit : decode 0b00000000000000000000000000010000 = .ok .ghinit := by decide
theorem test_decode_ghaad : decode 0b00000000000000000000001100010001 = .ok (.ghaad 3) := by decide
theorem test_decode_ghct : decode 0b00000000000000000000100100010010 = .ok (.ghct 9) := by decide
theorem test_decode_ghlen : decode 0b00000000000000000000000000010011 = .ok .ghlen := by decide
theorem test_decode_inc32 : decode 0b00000000000000000000000000100000 = .ok .inc32 := by decide
theorem test_decode_ctrxor : decode 0b00000000000000000001000000100001 = .ok (.ctrxor 16) := by decide
theorem test_decode_taggen : decode 0b00000000000000000000000000110000 = .ok .taggen := by decide
theorem test_decode_tagcmp : decode 0b00000000000000000000000000110001 = .ok .tagcmp := by decide
theorem test_decode_clrerr : decode 0b00000000000000000000000001111110 = .ok .clrerr := by decide
theorem test_decode_sreset : decode 0b00000000000000000000000001111111 = .ok .sreset := by decide

/-- T-DEC-1: the words that are no command. -/
theorem test_decode_illegal :
    decode 0x00000005 = .error .unknownOpcode ∧ decode 0x000000ff = .error .unknownOpcode ∧
    decode 0x00000014 = .error .unknownOpcode ∧ decode 0x00002000 = .error .reservedBitsSet ∧
    decode 0x80000001 = .error .reservedBitsSet ∧ decode 0x00000110 = .error .countInFormatZ ∧
    decode 0x0000017e = .error .countInFormatZ ∧ decode 0x0000207f = .error .reservedBitsSet ∧
    decode 0x00002011 = .error .reservedBitsSet := by decide

/-- The table's numbering: bit 0 is the least significant bit of the one word. -/
theorem test_decodeTableWord :
    decodeTableWord 32 0x00001011 = some (.ghaad 16) ∧ decodeTableWord 32 0x00000005 = none := by decide

/-! ### States -/

/-- T-GF-8 (d): a unit keyed with the NIST H. -/
def keyed : GhctrUnit := { GhctrUnit.reset with h := nistH, tbl := buildTable nistH, hvalid := true }

/-- A machine with this unit, whose cipher is table E0 of 95_test_vectors.md. -/
def machine (u : GhctrUnit) : State where
  unit := u
  cipher := [(0x0, 0x66e94bd4ef8a2c3b884cfa59ca342b2e), (0x1, 0x58e2fccefa7e3061367f1d57a4e7455a),
    (0x2, 0x0388dace60b6a392f328c2b971b2fe78)]
  inputs := []
  replies := []

/-- The cipher of table E1 of 95_test_vectors.md (T-SRC-3), its subkey loaded. -/
def scenario : State where
  unit := { keyed with
    h := 0xfde4fbae4a09e020eff722969f83832b, tbl := buildTable 0xfde4fbae4a09e020eff722969f83832b }
  cipher := [(0x0, 0xfde4fbae4a09e020eff722969f83832b),
    (0x000102030405060708090a0b00000001, 0x8f938f40f877e0c4af37d0fe9af03305),
    (0x000102030405060708090a0b00000002, 0x2bd537c4ae978f609f38299f108d41ed)]
  inputs := []
  replies := []

/-- The unit a command leaves; the unit itself if it stopped. -/
def after (i : Instr) (u : GhctrUnit) : GhctrUnit :=
  match exec i (machine u) with
  | .next t => t.unit
  | _ => u

/-- The unit a host operation leaves. -/
def afterOp (o : HostOp) (u : GhctrUnit) : GhctrUnit :=
  match performOp o (machine u) with
  | .next t => t.unit
  | _ => u

/-- The unit the write of a command word leaves. -/
def afterWord (w : Word) (u : GhctrUnit) : GhctrUnit := afterOp (.write (.cmd w)) u

/-- T-TAG: `Y = 0`, `DONE`, `CB = J0`. -/
def tagReady : GhctrUnit := { keyed with phase := .done, cb := 1 }

/-- T-GH-6: 16 bytes below the counter's limit. -/
def nearLimit : GhctrUnit := { keyed with phase := .aad, lena := 0xffffffffffffff80 }

/-- Whether an outcome is this next state. -/
def answers (o : Outcome) (t : State) : Bool :=
  match o with
  | .next s => decide (s = t)
  | _ => false

theorem answers_eq {o : Outcome} {t : State} (h : answers o t = true) : o = .next t := by
  cases o with
  | next s => rw [of_decide_eq_true h]
  | fault r => cases h
  | refused r => cases h

/-! ### One command, one step -/

/-- T-CTL-2. -/
theorem test_nop : after .nop keyed = keyed := by decide +kernel

/-- T-GF-2, the general row. -/
theorem test_gfmul : (after .gfmul { GhctrUnit.reset with
    opa := 0x0123456789abcdeffedcba9876543210, opb := 0x00112233445566778899aabbccddeeff }).res =
      0x24d54fb01d1e73fb113b0207cac38dff := by decide +kernel

/-- T-GF-2, the deepest reduction: swapped or unreflected bits would show. -/
theorem test_gfmul_reduction : (after .gfmul { GhctrUnit.reset with opa := 1, opb := 2 }).res =
    0x0e100000000000000000000000000007 := by decide +kernel

/-- T-GF-5, T-GF-8. -/
theorem test_hload : lookup (after .hload { GhctrUnit.reset with opa := nistH }).tbl 11 =
    0x030e305b4999e2b21b565b8481ffa480 ∧
    statusWord (after .hload { GhctrUnit.reset with opa := nistH }) = 0x00000001 := by decide +kernel

/-- T-GF-8 (c). -/
theorem test_hload_in_aad : statusWord (after .hload { keyed with phase := .aad }) = 0x00000403 := by decide +kernel

/-- T-GF-8 (d): `H = E0(0)`. -/
theorem test_hkey : after .hkey GhctrUnit.reset = keyed := by decide +kernel

/-- T-GF-6, all nibbles. -/
theorem test_hmul : (after .hmul { keyed with opa := 0xffffffffffffffffffffffffffffffff }).res =
    0xcb2dc6f0b950f18d9e396c7438025a0c := by decide +kernel

/-- T-CTL-4. -/
theorem test_hmul_without_subkey : statusWord (after .hmul GhctrUnit.reset) = 0x00000300 := by decide +kernel

/-- T-GH-5: `GHINIT` abandons a message. -/
theorem test_ghinit : after .ghinit { keyed with phase := .ct, y := 5, lena := 8, lenc := 8, tagok := true } =
    { keyed with phase := .aad } := by decide +kernel

/-- T-GH-1: the bytes beyond `NB` are ignored. -/
theorem test_ghaad : after (.ghaad 3) { keyed with phase := .aad, opa := 0x637478ffffffffffffffffffffffffff } =
    { keyed with
      phase := .aad, opa := 0x637478ffffffffffffffffffffffffff, y := 0xafcc6b0ec7e8945c30d878a4731f15ef,
      lena := 0x18 } := by decide +kernel

/-- T-GH-6: the counter's limit. -/
theorem test_ghaad_limit :
    (after (.ghaad 15) { keyed with phase := .aad, lena := 0xffffffffffffff80 }).lena = 0xfffffffffffffff8 ∧
    statusWord (after (.ghaad 16) { keyed with phase := .aad, lena := 0xffffffffffffff80 }) = 0x00000503 ∧
    statusWord (after (.ghaad 16) { keyed with phase := .aad, lena := 0xffffffffffffff88 }) = 0x00000403 := by
  decide +kernel

/-- T-GH-1, the ciphertext chunk. -/
theorem test_ghct : (after (.ghct 9) { keyed with
    phase := .aad, lena := 0x18, opa := 0xa1b2c3d4e5f607182900000000000000,
    y := 0xafcc6b0ec7e8945c30d878a4731f15ef }).y =
      0x57e0aba46f9544f3a005d2f497a8f84c := by decide +kernel

/-- T-GH-5: a chunk after a short chunk; a short AAD chunk does not close the ciphertext. -/
theorem test_ghct_short :
    statusWord (after (.ghct 16) { keyed with phase := .ct, lenc := 40 }) = 0x00000405 ∧
    statusWord (after (.ghct 16) { keyed with phase := .aad, lena := 40 }) = 0x00000005 := by decide +kernel

/-- T-GH-1, the length block. -/
theorem test_ghlen : (after .ghlen { keyed with
    phase := .ct, lena := 0x18, lenc := 0x48, y := 0x57e0aba46f9544f3a005d2f497a8f84c }).y = 0xe1b1c6dd65e62ffa601a583390c861c8 := by decide +kernel

/-- T-CTR-1: the wrap leaves the upper 96 bits. -/
theorem test_inc32 : (after .inc32 { GhctrUnit.reset with cb := 0xffffffffffffffffffffffffffffffff }).cb =
    0xffffffffffffffffffffffff00000000 := by decide +kernel

/-- T-CTR-2: truncation, and the counter advances by one. -/
theorem test_ctrxor : after (.ctrxor 5) { GhctrUnit.reset with opa := 0xffffffffffffffffffffffffffffffff, cb := 2 } =
    { GhctrUnit.reset with
      opa := 0xffffffffffffffffffffffffffffffff, cb := 3, res := 0xfc7725319f0000000000000000000000 } := by decide +kernel

/-- T-TAG-1. -/
theorem test_taggen : (after .taggen tagReady).res = 0x58e2fccefa7e3061367f1d57a4e7455a := by decide +kernel

/-- T-TAG-4: `ERR_NOH` outranks `ERR_SEQ`. -/
theorem test_taggen_at_reset : statusWord (after .taggen GhctrUnit.reset) = 0x00000300 := by decide +kernel

/-- T-TAG-2. -/
theorem test_tagcmp_match : after .tagcmp { tagReady with opa := 0x58e2fccefa7e3061367f1d57a4e7455a, res := 9 } =
    { tagReady with opa := 0x58e2fccefa7e3061367f1d57a4e7455a, tagok := true } := by decide +kernel

/-- T-TAG-3: one bit wrong, in the last byte and in the first. -/
theorem test_tagcmp_mismatch :
    statusWord (after .tagcmp { tagReady with opa := 0x58e2fccefa7e3061367f1d57a4e7455b }) = 0x00000607 ∧
    statusWord (after .tagcmp { tagReady with opa := 0xd8e2fccefa7e3061367f1d57a4e7455a, tagok := true }) =
      0x00000607 := by decide +kernel

/-- T-CTL-3. -/
theorem test_clrerr : statusWord (after .clrerr { tagReady with err := .auth }) = 0x00000007 := by decide +kernel

/-- T-CTL-4, from a faulted state. -/
theorem test_sreset : after .sreset { tagReady with err := .auth, res := 7, opb := 7 } = GhctrUnit.reset := by
  decide +kernel

/-! ### Words, register accesses, faults -/

/-- T-DEC-1. -/
theorem test_illegal_words :
    (afterWord 0x0000207f keyed).err = .opcode ∧ (afterWord 0x0000017e keyed).err = .opcode ∧
    (afterWord 0x00002011 keyed).err = .opcode ∧ (afterWord 0x00000011 GhctrUnit.reset).err = .nb ∧
    (afterWord 0x00001f21 keyed).err = .nb := by decide +kernel

/-- T-FLT-1. -/
theorem test_priority :
    (afterWord 0x00001011 GhctrUnit.reset).err = .noh ∧ (afterWord 0x00001011 keyed).err = .seq ∧
    statusWord (afterWord 0x00001011 { GhctrUnit.reset with phase := .aad }) = 0x00000302 ∧
    (afterWord 0x00000031 keyed).err = .seq := by decide +kernel

/-- T-FLT-2: refusal while faulted, and the two words that are not. -/
theorem test_faulted :
    afterWord 0x00000010 { keyed with err := .noh } = { keyed with err := .noh } ∧
    afterWord 0x0000017e { keyed with err := .noh } = { keyed with err := .noh } ∧
    afterOp (.read .cmd) { keyed with err := .noh } = { keyed with err := .noh } ∧
    afterOp (.write (.opa 5)) { keyed with err := .noh } = { keyed with err := .noh, opa := 5 } ∧
    afterWord 0x0000007e { keyed with err := .noh } = keyed := by decide +kernel

/-- T-ACC-1. -/
theorem test_access :
    (readReg .cmd keyed).2.toNat = 0 ∧ (readReg .cmd keyed).1.err = .access ∧
    (readReg (.unmapped 6) keyed).1.err = .access ∧ (readReg .lenc { keyed with lenc := 72 }).2 = .bits64 72 ∧
    (afterOp (.write (.res 1)) keyed) = { keyed with err := .access } ∧
    (afterOp (.write (.status 0)) keyed).err = .access := by decide +kernel

/-- R230: a hardware reset between two operations, and the step that takes it. -/
theorem test_hardware_reset :
    step { (machine tagReady) with inputs := [.hardwareReset, .op (.read .status)] } =
      .next { (machine GhctrUnit.reset) with inputs := [.op (.read .status)] } := rfl

/-- The interface the host calls: the word placed is the next one run. -/
theorem test_withFetchWord : step (State.reset.withFetchWord 32 0x20) = exec .inc32 State.reset := rfl

/-- T-GF-3, T-GF-4: the rest of the table and of `mulx4`. -/
theorem test_field :
    lookup (buildTable nistH) 2 = 0xf8ba52f53be28b0ee2133e96728d0acb ∧
    mulx4 0xffffffffffffffffffffffffffffffff = 0xba1fffffffffffffffffffffffffffff ∧
    tblmul (buildTable nistH) 0x123 = 0xb1aa4ade44cc62a65f7eea5787dc8880 := by decide +kernel

/-- T-CTR-3, its first piece: 5 bytes under the second keystream block. -/
theorem test_encryptCtr : encryptCtr (machine keyed).cipherAt 2 [0, 1, 2, 3, 4] = [0x03, 0x89, 0xd8, 0xcd, 0x64] := by
  decide +kernel

/-! ### Witnesses: the hypotheses of the statements can be met -/

theorem witness_DecodeInvertsEncode :
    decode 0x00001f11 = .ok (.ghaad 31) ∧ (0x00001f11 : Word) = encode (.ghaad 31) := by decide

theorem witness_WordsAreSelectedByMatchAndMask :
    (0x0000112 : Word) &&& 0xFFFFE0FF = 0x00000012 ∧ (0x0000112 : Word).extractLsb' 8 5 = 1 ∧
    (0x0000001f12 : Word).extractLsb' 8 5 = 31 ∧ opcodeField 0x000000ff ∉ opcodes := by decide

/-- A clear and a faulted unit. -/
theorem witness_units : keyed.err = .clear ∧ ({ keyed with err := .nb } : GhctrUnit).err ≠ .clear ∧
    GhctrUnit.reset.err = .clear ∧ GhctrUnit.reset.hvalid = false ∧ keyed.hvalid = true := by decide

theorem witness_badOpcode : BadOpcode 0x00000005 ∧ BadOpcode 0x00002000 ∧ BadOpcode 0x0000017e ∧
    BadOpcode 0x80000011 := by unfold BadOpcode; decide

theorem witness_badCount : (¬ BadOpcode 0x00000011 ∧ BadCount 0x00000011) ∧ (¬ BadOpcode 0x00001112 ∧ BadCount 0x00001112) ∧
    (¬ BadOpcode 0x00001f21 ∧ BadCount 0x00001f21) := by unfold BadOpcode BadCount; decide

theorem witness_goodWords : (¬ BadOpcode 0x00000111 ∧ ¬ BadCount 0x00000111) ∧
    (¬ BadOpcode 0x00001012 ∧ ¬ BadCount 0x00001012) ∧ (¬ BadOpcode 0x00000031 ∧ ¬ BadCount 0x00000031) ∧
    opcodeField 0x00000111 ∈ subkeyOpcodes ∧ opcodeField 0x00000001 ∉ subkeyOpcodes := by
  unfold BadOpcode BadCount; decide

/-- CommandWordsAreDispatchedInOrder, FaultedStateRefusesCommands: words that are neither `CLRERR` nor `SRESET`. -/
theorem witness_CommandWordsAreDispatchedInOrder :
    (0x0000017f : Word) ≠ 0x0000007F ∧ (0x0000017f : Word) ≠ 0x0000007E ∧
    ∀ w ∈ [(0x00000000 : Word), 0x0000017e, 0x0000007d], w ≠ 0x0000007E ∧ w ≠ 0x0000007F := by simp

theorem witness_IllegalWordsRaiseTheirFault :
    opcodeField 0x00000005 ∉ opcodes ∧ reservedField 0x80000000 ≠ 0 ∧
    (opcodeField 0x00000101 ∈ opcodes ∧ opcodeField 0x00000101 ∉ formatNOpcodes ∧ countField 0x00000101 ≠ 0) ∧
    (opcodeField 0x00001121 ∈ formatNOpcodes ∧ reservedField 0x00001121 = 0 ∧ 17 ≤ (countField 0x00001121).toNat) ∧
    (opcodeField 0x00000021 ∈ formatNOpcodes ∧ reservedField 0x00000021 = 0 ∧ countField 0x00000021 = 0) := by decide

theorem witness_StepRunsTheDecodedCommand :
    ({ (machine keyed) with inputs := [.op (.write (.cmd 0x911))] } : State).inputs = [.op (.write (.cmd 0x911))] ∧
    decode 0x911 = .ok (.ghaad 9) := by decide

theorem witness_ReadReturnsTheRegister :
    Reg.status.number = 0x1 ∧ Reg.lenc.number = 0x8 ∧ Reg.cmd.number = 0x0 ∧ (0x9 : BitVec 4) ≤ (Reg.unmapped 0).number ∧
    (0x9 : BitVec 4) ≤ (Reg.unmapped 6).number := by decide

theorem witness_WriteStoresOrFaults :
    ((RegWrite.status 0).reg.number ≠ 0x0 ∧ (RegWrite.status 0).reg.number ≠ 0x2 ∧
      (RegWrite.status 0).reg.number ≠ 0x3 ∧ (RegWrite.status 0).reg.number ≠ 0x6) ∧
    ((RegWrite.unmapped 6).reg.number ≠ 0x0 ∧ (RegWrite.unmapped 6).reg.number ≠ 0x2 ∧
      (RegWrite.unmapped 6).reg.number ≠ 0x3 ∧ (RegWrite.unmapped 6).reg.number ≠ 0x6) ∧
    (RegWrite.lena 0xffffffffffffffff).reg.width = some 64 := by decide

/-- StepTakesOneInput; RunningTheQueueIssuesItsOperations. -/
theorem witness_RunningTheQueueIssuesItsOperations : (machine keyed).inputs = [] ∧
    issue [.write (.cb 7), .read .cb] (machine keyed) =
      .next { (machine { keyed with cb := 7 }) with replies := [.bits128 7] } := by
  exact ⟨rfl, rfl⟩

/-- FaultPriority, FaultsArePrecise, CommandsRaiseOnlyTheirFaults: each clause after the first three. -/
theorem witness_FaultPriority :
    BadSequence 0x00001011 keyed ∧
    (¬ BadSequence 0x00001011 nearLimit ∧ BadLength 0x00001011 nearLimit) ∧
    (¬ BadSequence 0x00000031 tagReady ∧ ¬ BadLength 0x00000031 tagReady ∧ BadTag 0x00000031 (machine tagReady)) ∧
    (¬ BadSequence 0x00000f11 nearLimit ∧ ¬ BadLength 0x00000f11 nearLimit ∧ ¬ BadTag 0x00000f11 (machine nearLimit)) := by
  unfold BadSequence BadLength BadTag
  exact ⟨by decide, ⟨by decide, by decide⟩, ⟨by decide, by decide, by decide⟩, by decide, by decide, by decide⟩

theorem witness_FaultsArePrecise :
    performOp (.read .cmd) (machine keyed) =
      .next { (machine { keyed with err := .access }) with replies := [.zero] } ∧
    performOp (.write (.cmd 0x31)) (machine tagReady) =
      .next (machine { tagReady with res := 0, tagok := false, err := .auth }) := by
  exact ⟨rfl, answers_eq (by decide +kernel)⟩

theorem witness_CommandsRaiseOnlyTheirFaults :
    exec .hmul (machine GhctrUnit.reset) = .next (machine { GhctrUnit.reset with err := .noh }) ∧
    exec (.ghct 17) (machine keyed) = .next (machine { keyed with err := .nb }) := by exact ⟨rfl, rfl⟩

theorem witness_FirstFaultIsKept : ErrCode.auth ≠ .clear ∧ ErrCode.opcode ≠ .clear ∧ keyed.err = .clear := by decide

theorem witness_NoZeroDivisors : multiply 0 nistH = 0 := by decide +kernel

/-- The phases and conditions the command statements ask for, at the ends of their ranges. -/
theorem witness_commands :
    (keyed.phase = .idle ∧ tagReady.phase = .done ∧ tagReady.hvalid = true ∧ tagReady.err = .clear) ∧
    (1 ≤ (1 : Count).toNat ∧ (16 : Count).toNat ≤ 16 ∧ 17 ≤ (17 : Count).toNat ∧ (0 : Count).toNat = 0) ∧
    keyed.tbl = buildTable keyed.h := by
  exact ⟨by decide, by decide, rfl⟩

theorem witness_GhaadAbsorbsAnAadChunk :
    (0xffffffffffffff80 : BitCount).toNat % 128 = 0 ∧
    (0xffffffffffffff80 : BitCount).toNat + 8 * (15 : Count).toNat ≤ 2 ^ 64 - 1 ∧
    2 ^ 64 - 1 < (0xffffffffffffff80 : BitCount).toNat + 8 * (16 : Count).toNat ∧
    ¬ ((Phase.aad = .aad) ∧ (8 : BitCount).toNat % 128 = 0) ∧ ¬ (Phase.ct = .aad ∧ (0 : BitCount).toNat % 128 = 0) := by
  decide

/-- GhctAbsorbsACiphertextChunk, its clause on what follows, and GhlenAbsorbsTheLengthBlock. -/
theorem witness_GhctAbsorbsACiphertextChunk :
    exec (.ghct 16) (machine { keyed with phase := .aad, opa := 0x80000000000000000000000000000000 }) =
      .next (machine { keyed with phase := .ct, opa := 0x80000000000000000000000000000000, y := nistH, lenc := 128 }) ∧
    ¬ ((Phase.done = .aad ∨ Phase.done = .ct) ∧ (0 : BitCount).toNat % 128 = 0) ∧
    exec .ghlen (machine { keyed with phase := .aad }) = .next (machine { keyed with phase := .done }) := by
  refine ⟨answers_eq (by decide +kernel), by decide, answers_eq (by decide +kernel)⟩

theorem witness_TaggenFormsTheTag :
    exec .taggen (machine tagReady) = .next (machine { tagReady with res := 0x58e2fccefa7e3061367f1d57a4e7455a }) ∧
    issue [.write (.opa tagReady.y), commandOp (.ctrxor 16)] (machine tagReady) =
      .next (machine { tagReady with opa := 0, cb := 2, res := 0x58e2fccefa7e3061367f1d57a4e7455a }) := by
  exact ⟨answers_eq (by decide +kernel), answers_eq (by decide +kernel)⟩

theorem witness_TagcmpComparesTheTag :
    (0x58e2fccefa7e3061367f1d57a4e7455a : Block) = tagReady.y ^^^ (machine tagReady).cipherAt tagReady.cb ∧
    (0 : Block) ≠ tagReady.y ^^^ (machine tagReady).cipherAt tagReady.cb ∧
    (after .ghinit { tagReady with tagok := true }).tagok = false := by decide +kernel

theorem witness_statusWords : statusWord keyed = 0x00000001 ∧
    statusWord { tagReady with err := .auth } = 0x00000607 := by decide

/-- CommandsWriteOnlyTheirComponents and OperandsChangeOnlyByTheHost: components that do change. -/
theorem witness_changes :
    exec .inc32 (machine keyed) = .next (machine { keyed with cb := 1 }) ∧ Instr.inc32 ≠ .sreset ∧
    step { (machine keyed) with inputs := [.op (.write (.opb 5))] } = .next (machine { keyed with opb := 5 }) := by
  exact ⟨answers_eq (by decide +kernel), by decide, rfl⟩

/-- StepKeepsTheUnitInvariant, on a keyed unit that holds a message. -/
theorem witness_StepKeepsTheUnitInvariant :
    UnitInvariant { keyed with phase := .ct, lenc := 8 } ∧
    step (machine { keyed with phase := .ct, lenc := 8 }) = .next (machine { keyed with phase := .ct, lenc := 8 }) := by
  refine ⟨⟨rfl, ⟨by decide, by decide⟩, ?_, ?_⟩, rfl⟩
  · constructor <;> simp [keyed]
  · constructor <;> simp [keyed, GhctrUnit.reset]

/-- StepKeepsTheAccumulatorOfAMessage, with AAD absorbed (T-GH-1). -/
theorem witness_StepKeepsTheAccumulatorOfAMessage :
    TableMatches { keyed with phase := .aad, lena := 0x18, y := 0xafcc6b0ec7e8945c30d878a4731f15ef } ∧
    AccumulatorOfMessage ⟨nistH, ctx, []⟩
      { keyed with phase := .aad, lena := 0x18, y := 0xafcc6b0ec7e8945c30d878a4731f15ef } :=
  ⟨rfl, by decide, by decide, rfl, rfl, by decide +kernel⟩

/-- The message grows by the first `nb` bytes of `OPA` when the command completes, and not when it faults. -/
theorem test_message_after :
    (Message.empty nistH).after { (machine { keyed with opa := 0x637478ff000000000000000000000000 }) with
      inputs := [commandInput 0x00000311] } (machine keyed) = ⟨nistH, ctx, []⟩ ∧
    (Message.empty nistH).after { (machine { keyed with opa := 0x637478ff000000000000000000000000 }) with
      inputs := [commandInput 0x00000311] } (machine { keyed with err := .seq }) = Message.empty nistH := by decide

/-- `Ready`: EmptyMessageHashesToZero, GhashSequenceComputesGhash, EncryptReturnsTheRecord,
DecryptVerifiesBeforeDecrypting, DecryptUndoesEncrypt. -/
theorem witness_Ready : Ready (machine keyed) := ⟨rfl, by decide +kernel, rfl, rfl⟩

theorem witness_EmptyMessageHashesToZero :
    issue [commandOp .ghinit, commandOp .ghlen] (machine keyed) = .next (machine { keyed with phase := .done }) :=
  answers_eq (by decide +kernel)

/-- Lengths: GhashSequenceComputesGhash with and without pieces, PreCounterBlock, the record's two lengths. -/
theorem witness_lengths :
    8 * ([1, 2, 3] : List Byte).length < 2 ^ 64 ∧ (chunks [1, 2, 3] ++ chunks []).getLast? = some [1, 2, 3] ∧
    (List.replicate 12 (0 : Byte)).length = 12 ∧ (List.replicate 11 (0 : Byte)).length ≠ 12 ∧
    (List.replicate 16 (0 : Byte)).length = 16 ∧ (List.replicate 27 (0 : Byte)).length < 28 := by decide

/-- DecryptVerifiesBeforeDecrypting: with an empty message the tag is `E(J0)` (T-SRC-1); any other tag is wrong. -/
theorem witness_DecryptVerifiesBeforeDecrypting :
    blockOfBytes (blockBytes 0x58e2fccefa7e3061367f1d57a4e7455a) =
      gcmTag (machine keyed).cipherAt ((machine keyed).cipherAt 0) (preCounter (List.replicate 12 0)) [] [] ∧
    blockOfBytes (List.replicate 16 0) ≠
      gcmTag (machine keyed).cipherAt ((machine keyed).cipherAt 0) (preCounter (List.replicate 12 0)) [] [] := by
  decide +kernel

theorem witness_CounterWrapsAfterTwoToThe32 : 0 < 2 ^ 32 - 1 ∧ 2 ^ 32 - 1 < 2 ^ 32 := by decide

/-- TamperingIsDetected: one byte changed in the only block. -/
theorem witness_TamperingIsDetected :
    nistH ≠ 0 ∧ (machine keyed).cipherAt 0 ≠ 0 ∧ DifferInOneBlock [1, 2] [1, 3] := by
  refine ⟨by decide, by decide +kernel, rfl, by decide, 0, fun j hj => ?_⟩
  have h : 16 ≤ j := by omega
  rw [List.getD_eq_default _ _ (by simp; omega), List.getD_eq_default _ _ (by simp; omega)]

/-- EngineIsDeterministicAndMeetsItsVectors: the points of tables E0 and E1, each with a `Ready` unit. -/
theorem witness_EngineIsDeterministicAndMeetsItsVectors :
    ((machine keyed).cipherAt 0 = nistH ∧ (machine keyed).cipherAt 1 = 0x58e2fccefa7e3061367f1d57a4e7455a ∧
      (machine keyed).cipherAt 2 = 0x0388dace60b6a392f328c2b971b2fe78) ∧
    Ready scenario ∧ scenario.cipherAt 0 = 0xfde4fbae4a09e020eff722969f83832b ∧
    scenario.cipherAt 0x000102030405060708090a0b00000001 = 0x8f938f40f877e0c4af37d0fe9af03305 ∧
    scenario.cipherAt 0x000102030405060708090a0b00000002 = 0x2bd537c4ae978f609f38299f108d41ed := by
  exact ⟨by decide +kernel, ⟨rfl, by decide +kernel, rfl, rfl⟩, by decide +kernel⟩

end Sys2Proof.Tests
end

section
/-! PROOFS. What one input can do to the machine (spec 00_scope.md R10, R11): the step by the next input, the decoder read
backwards, and the three outcomes of a host operation. -/

namespace Sys2Proof.Machine

/-! ### The step, by the next input (R10, R230) -/

theorem step_idle {s : State} (h : s.inputs = []) : step s = .next s := by
  simp only [step, stepInput, h]

theorem step_op {s : State} {o : HostOp} {rest : List Input} (h : s.inputs = .op o :: rest) :
    step s = performOp o { s with inputs := rest } := by
  simp only [step, stepInput, h, acceptInput]

theorem step_hardwareReset {s : State} {rest : List Input} (h : s.inputs = .hardwareReset :: rest) :
    step s = .next { s with unit := GhctrUnit.reset, inputs := rest } := by
  simp only [step, stepInput, h, acceptInput, resetUnit]

/-- Settles O10: the three lemmas above, one per form of the queue. -/
theorem stepTakesOneInput : Obligations.StepTakesOneInput :=
  ⟨fun _ h => step_idle h, fun _ _ _ h => step_op h, fun _ _ h => step_hardwareReset h⟩

/-- R231: a step answers a next state, under the same cipher. -/
theorem step_next (s : State) : ∃ t, step s = .next t ∧ t.cipher = s.cipher := by
  match h : s.inputs with
  | [] => exact ⟨s, step_idle h, rfl⟩
  | .hardwareReset :: rest => exact ⟨_, step_hardwareReset h, rfl⟩
  | .op o :: rest =>
    obtain ⟨u, r, ho⟩ := performOp_next o { s with inputs := rest }
    exact ⟨_, (step_op h).trans ho, rfl⟩

/-! ### The decoder, read backwards (30_encoding.md R71 to R74) -/

/-- R72: a format-Z row takes the word only with its `NB` field zero. -/
theorem formatZ_eq_ok {nb : Count} {i j : Instr} (h : formatZ nb i = .ok j) : nb = 0 ∧ j = i := by
  unfold formatZ at h
  split at h
  · rename_i hnb; cases h; exact ⟨hnb, rfl⟩
  · cases h

/-- R74: the selected command has the opcode and the count it was selected by. -/
theorem selectCommand_eq_ok {opc : BitVec 8} {nb : Count} {i : Instr} (h : selectCommand opc nb = .ok i) :
    i.opcode = opc ∧ i.count = nb := by
  unfold selectCommand at h
  split at h
  -- the three format-N rows, then the unknown opcodes; every other row is of format Z
  case h_7 | h_8 | h_11 => cases h; exact ⟨rfl, rfl⟩
  case h_16 => cases h
  all_goals
    obtain ⟨rfl, rfl⟩ := formatZ_eq_ok h
    exact ⟨rfl, rfl⟩

/-- R71: a word whose `RSV` field is zero is put together from its other two fields. -/
theorem commandWord_fields {w : Word} (h : reservedField w = 0) : commandWord (opcodeField w) (countField w) = w := by
  have hr : w.toNat / 2 ^ 13 % 2 ^ 19 = 0 := by
    simpa [reservedField, Nat.shiftRight_eq_div_pow] using congrArg BitVec.toNat h
  have high : ∀ k, 13 ≤ k → w.getLsbD k = false := by
    intro k hk
    have hlt : w.toNat < 2 ^ k := lt_of_lt_of_le (by omega) (Nat.pow_le_pow_right (by omega) hk)
    exact Nat.testBit_lt_two_pow hlt
  apply BitVec.eq_of_getLsbD_eq
  intro k hk
  simp only [commandWord, opcodeField, countField, BitVec.getLsbD_or, BitVec.getLsbD_shiftLeft,
    BitVec.getLsbD_setWidth, BitVec.getLsbD_extractLsb', hk, decide_true, Bool.true_and]
  by_cases h8 : k < 8
  · simp [h8]
  by_cases h13 : k < 13
  · simp [h8, show k - 8 < 32 by omega, show k - 8 < 5 by omega, show 8 + (k - 8) = k by omega]
  · simp [h8, show ¬ k - 8 < 5 by omega, high k (by omega)]

/-- R71, R74: only its own word decodes to a command. -/
theorem encode_of_decode {w : Word} {i : Instr} (h : decode w = .ok i) : encode i = w := by
  unfold decode at h
  split at h
  · rename_i hr
    obtain ⟨ho, hc⟩ := selectCommand_eq_ok h
    rw [encode, ho, hc, commandWord_fields hr]
  · cases h

/-! ### A command word: the command it decodes to, the refusal, or `ERR_OPCODE` (30_encoding.md R75) -/

/-- R75 steps 1 and 2: the two commands that the faulted state lets through run in every state. -/
theorem executeWord_sreset (s : State) : executeWord 0x0000007F s = exec .sreset s := rfl

theorem executeWord_clrerr (s : State) : executeWord 0x0000007E s = exec .clrerr s := rfl

/-- R75 step 3, R205: any other word is refused while the unit is faulted. -/
theorem executeWord_refused {w : Word} {s : State} (hf : s.unit.err ≠ .clear) (hc : w ≠ 0x0000007E)
    (hs : w ≠ 0x0000007F) : executeWord w s = .next s := by
  simp only [executeWord, if_neg hs, if_neg hc, if_pos hf]

/-- R75 steps 4 to 7: while the unit is not faulted, a word runs the command it decodes to. -/
theorem executeWord_decoded {w : Word} {s : State} {i : Instr} (hf : s.unit.err = .clear) (hi : decode w = .ok i) :
    executeWord w s = exec i s := by
  unfold executeWord
  split
  · rename_i h; subst h; cases hi; rfl
  split
  · rename_i h; subst h; cases hi; rfl
  rw [if_neg (not_not.2 hf), hi]

/-- R75 step 4, R76: a word that is no command records `ERR_OPCODE`. -/
theorem executeWord_undecoded {w : Word} {s : State} {e : DecodeError} (hf : s.unit.err = .clear)
    (he : decode w = .error e) : executeWord w s = .next { s with unit := raise .opcode s.unit } := by
  unfold executeWord
  split
  · rename_i h; subst h; cases he
  split
  · rename_i h; subst h; cases he
  rw [if_neg (not_not.2 hf), he]
  rfl

/-- Everything a command word can do. -/
theorem executeWord_cases (w : Word) (s : State) :
    (∃ i, decode w = .ok i ∧ executeWord w s = exec i s) ∨
      (s.unit.err ≠ .clear ∧ w ≠ 0x0000007E ∧ w ≠ 0x0000007F ∧ executeWord w s = .next s) ∨
      (∃ e, s.unit.err = .clear ∧ decode w = .error e ∧
        executeWord w s = .next { s with unit := raise .opcode s.unit }) := by
  by_cases hs : w = 0x0000007F
  · subst hs; exact .inl ⟨.sreset, rfl, executeWord_sreset s⟩
  by_cases hc : w = 0x0000007E
  · subst hc; exact .inl ⟨.clrerr, rfl, executeWord_clrerr s⟩
  by_cases hf : s.unit.err = .clear
  · cases hd : decode w with
    | ok i => exact .inl ⟨i, rfl, executeWord_decoded hf hd⟩
    | error e => exact .inr (.inr ⟨e, hf, rfl, executeWord_undecoded hf hd⟩)
  · exact .inr (.inl ⟨hf, hc, hs, executeWord_refused hf hc hs⟩)

/-! ### The outcomes of R11, on the unit -/

/-- R11, from `u` to `v`: Done, where no code is recorded; or a Fault (R206), where a code is recorded and nothing else
changes. -/
def DoneOrFaulted (u v : GhctrUnit) : Prop :=
  (v.err = u.err ∨ v.err = .clear) ∨ (u.err = .clear ∧ v.err ≠ .clear ∧ v = { u with err := v.err })

/-- R158, R206: the fault of a `TAGCMP` that finds a mismatch, the only one that comes with other writes. -/
def MismatchFaulted (u v : GhctrUnit) : Prop :=
  u.err = .clear ∧ v = { u with res := 0, tagok := false, err := .auth }

/-- R158: what a `TAGCMP` can do, from `u` to `v`. -/
def TagcmpOutcome (u v : GhctrUnit) : Prop := DoneOrFaulted u v ∨ MismatchFaulted u v

theorem mismatchFaulted_err {u v : GhctrUnit} (h : MismatchFaulted u v) : v.err = .auth := by rw [h.2]

theorem doneOrFaulted_of_err_eq {u v : GhctrUnit} (h : v.err = u.err) : DoneOrFaulted u v := .inl (.inl h)

theorem doneOrFaulted_of_err_clear {u v : GhctrUnit} (h : v.err = .clear) : DoneOrFaulted u v := .inl (.inr h)

theorem doneOrFaulted_raise (e : ErrCode) (u : GhctrUnit) : DoneOrFaulted u (raise e u) := by
  rcases raise_cases e u with ⟨hu, hr⟩ | ⟨-, hr⟩ <;> rw [hr]
  · by_cases he : e = .clear
    · exact doneOrFaulted_of_err_clear he
    · exact .inr ⟨hu, he, rfl⟩
  · exact doneOrFaulted_of_err_eq rfl

/-- R75 step 3: what holds of the unit as it was, and of the command's result, holds of what the command answers. -/
theorem unlessFaulted_of {P : GhctrUnit → Prop} {u k : GhctrUnit} (hu : P u) (hk : u.err = .clear → P k) :
    P (unlessFaulted u k) := by
  by_cases hf : u.err = .clear
  · rw [unlessFaulted_clear k hf]; exact hk hf
  · rw [unlessFaulted_faulted k hf]; exact hu

/-- R8: what holds of the raised fault, and of what follows the check, holds of the check. -/
theorem requireElse_of {P : GhctrUnit → Prop} {c : Bool} {e : ErrCode} {u k : GhctrUnit} (hr : P (raise e u))
    (hk : P k) : P (requireElse c e u k) := by
  cases c with
  | false => exact hr
  | true => exact hk

theorem doneOrFaulted_unlessFaulted {u k : GhctrUnit} (hk : DoneOrFaulted u k) :
    DoneOrFaulted u (unlessFaulted u k) :=
  unlessFaulted_of (doneOrFaulted_of_err_eq rfl) fun _ => hk

theorem doneOrFaulted_requireElse {u k : GhctrUnit} (c : Bool) (e : ErrCode) (hk : DoneOrFaulted u k) :
    DoneOrFaulted u (requireElse c e u k) :=
  requireElse_of (doneOrFaulted_raise e u) hk

/-- R158: `TAGCMP` is Done, or faults in one of its checks, or finds a mismatch. -/
theorem execTagcmp_outcome {s t : State} (h : execTagcmp s = .next t) : TagcmpOutcome s.unit t.unit := by
  cases h
  refine unlessFaulted_of (.inl (doneOrFaulted_of_err_eq rfl)) fun hf => ?_
  refine requireElse_of (.inl (doneOrFaulted_raise .noh _)) (requireElse_of (.inl (doneOrFaulted_raise .seq _)) ?_)
  split
  · exact .inl (doneOrFaulted_of_err_eq rfl)
  · exact .inr ⟨hf, if_pos hf⟩

/-- R11, R206, for a command: its checks come first, and its effect leaves `ERR` alone or clears it; the mismatch of
`TAGCMP` is the one exception. -/
theorem exec_outcome {i : Instr} {s t : State} (h : exec i s = .next t) :
    DoneOrFaulted s.unit t.unit ∨ (i = .tagcmp ∧ MismatchFaulted s.unit t.unit) := by
  cases i with
  | tagcmp => exact (execTagcmp_outcome h).imp_right fun hm => ⟨rfl, hm⟩
  | nop => cases h; exact .inl (doneOrFaulted_of_err_eq rfl)
  | clrerr | sreset => cases h; exact .inl (doneOrFaulted_of_err_clear rfl)
  | gfmul | ghinit | inc32 =>
    cases h; exact .inl (doneOrFaulted_unlessFaulted (doneOrFaulted_of_err_eq rfl))
  | hload | hkey | hmul | ctrxor nb =>
    cases h
    exact .inl (doneOrFaulted_unlessFaulted (doneOrFaulted_requireElse _ _ (doneOrFaulted_of_err_eq rfl)))
  | ghlen | taggen =>
    cases h
    exact .inl (doneOrFaulted_unlessFaulted (doneOrFaulted_requireElse _ _ (doneOrFaulted_requireElse _ _
      (doneOrFaulted_of_err_eq rfl))))
  | ghaad nb | ghct nb =>
    cases h
    exact .inl (doneOrFaulted_unlessFaulted (doneOrFaulted_requireElse _ _ (doneOrFaulted_requireElse _ _
      (doneOrFaulted_requireElse _ _ (doneOrFaulted_requireElse _ _ (doneOrFaulted_of_err_eq rfl))))))

theorem executeWord_outcome {w : Word} {s t : State} (h : executeWord w s = .next t) :
    DoneOrFaulted s.unit t.unit ∨ (w = encode .tagcmp ∧ MismatchFaulted s.unit t.unit) := by
  rcases executeWord_cases w s with ⟨i, hi, hx⟩ | ⟨-, -, -, hx⟩ | ⟨e, -, -, hx⟩ <;> rw [hx] at h
  · refine (exec_outcome h).imp_right ?_
    rintro ⟨rfl, hm⟩
    exact ⟨(encode_of_decode hi).symm, hm⟩
  · cases h; exact .inl (doneOrFaulted_of_err_eq rfl)
  · cases h; exact .inl (doneOrFaulted_raise .opcode _)

theorem doneOrFaulted_readReg (r : Reg) (u : GhctrUnit) : DoneOrFaulted u (readReg r u).1 := by
  rcases readReg_unit r u with hr | hr <;> rw [hr]
  · exact doneOrFaulted_of_err_eq rfl
  · exact doneOrFaulted_raise .access u

theorem doneOrFaulted_writeReg (w : RegWrite) (u : GhctrUnit) : DoneOrFaulted u (writeReg w u) := by
  rcases writeReg_cases w u with ⟨v, -, hw⟩ | ⟨v, -, hw⟩ | ⟨v, -, hw⟩ | ⟨v, -, hw⟩ | hw <;> rw [hw]
  case inr.inr.inr.inr => exact doneOrFaulted_raise .access u
  all_goals exact doneOrFaulted_of_err_eq rfl

/-- R11, R206, for a host operation. -/
theorem performOp_outcome {o : HostOp} {s t : State} (h : performOp o s = .next t) :
    DoneOrFaulted s.unit t.unit ∨ (o = .write (.cmd (encode .tagcmp)) ∧ MismatchFaulted s.unit t.unit) := by
  cases o with
  | read r => cases h; exact .inl (doneOrFaulted_readReg r s.unit)
  | write w =>
    cases w with
    | cmd w =>
      refine (executeWord_outcome h).imp_right ?_
      rintro ⟨rfl, hm⟩
      exact ⟨rfl, hm⟩
    | _ => cases h; exact .inl (doneOrFaulted_writeReg _ s.unit)

/-- Settles O13: no operation stops (`step_next`, `performOp_next`), its outcome is one of R11's (`performOp_outcome`),
and a faulted unit refuses a command (`executeWord_refused`). -/
theorem everyOperationIsDoneFaultedOrRefused : Obligations.EveryOperationIsDoneFaultedOrRefused := by
  refine ⟨step_next, fun o s => ?_, fun w s hf hc hs => executeWord_refused hf hc hs⟩
  obtain ⟨u, r, ho⟩ := performOp_next o s
  refine ⟨_, ho, rfl, rfl, ?_⟩
  rcases performOp_outcome ho with (hdone | ⟨hu, hv, hsame⟩) | ⟨rfl, hmis⟩
  · exact .inl hdone
  · exact .inr ⟨hu, hv, .inl hsame⟩
  · exact .inr ⟨hmis.1, by rw [mismatchFaulted_err hmis]; decide, .inr ⟨rfl, hmis.2⟩⟩

end Sys2Proof.Machine
end

section
/-! PROOFS. What a command can do, said once (spec 30_encoding.md R75); from it who writes what (10_state.md R42), and
the invariant of the unit (10_state.md R34, R37; 43_tag.md R158). -/

namespace Sys2Proof.Machine

/-! ### The outcomes of a command, inverted -/

/-- What the command `i` makes of the unit `u`, under the cipher `e`, when all its checks pass: one rule per command,
with the checks as its premises. `exec_cases` ties it to `exec`. -/
inductive Completes (e : Block → Block) (u : GhctrUnit) : Instr → GhctrUnit → Prop
  | nop : Completes e u .nop u
  | gfmul (clear : u.err = .clear) : Completes e u .gfmul { u with res := multiply u.opa u.opb }
  | hload (clear : u.err = .clear) (loadable : subkeyLoadable u = true) : Completes e u .hload (loadSubkey u.opa u)
  | hkey (clear : u.err = .clear) (loadable : subkeyLoadable u = true) : Completes e u .hkey (loadSubkey (e 0) u)
  | hmul (clear : u.err = .clear) (keyed : u.hvalid = true) : Completes e u .hmul { u with res := tblmul u.tbl u.opa }
  | ghinit (clear : u.err = .clear) :
      Completes e u .ghinit { u with y := 0, lena := 0, lenc := 0, phase := .aad, tagok := false }
  | ghaad {nb : Count} (clear : u.err = .clear) (legal : countLegal nb = true) (keyed : u.hvalid = true)
      (allowed : aadAllowed u = true) (fits : lengthFits u.lena nb = true) :
      Completes e u (.ghaad nb) { absorb (keep u.opa nb) u with lena := u.lena + chunkBits nb }
  | ghct {nb : Count} (clear : u.err = .clear) (legal : countLegal nb = true) (keyed : u.hvalid = true)
      (allowed : ctAllowed u = true) (fits : lengthFits u.lenc nb = true) :
      Completes e u (.ghct nb) { absorb (keep u.opa nb) u with lenc := u.lenc + chunkBits nb, phase := .ct }
  | ghlen (clear : u.err = .clear) (keyed : u.hvalid = true) (isOpen : messageOpen u = true) :
      Completes e u .ghlen { absorb (lenBlock u.lena u.lenc) u with phase := .done }
  | inc32 (clear : u.err = .clear) : Completes e u .inc32 { u with cb := Machine.inc32 u.cb }
  | ctrxor {nb : Count} (clear : u.err = .clear) (legal : countLegal nb = true) :
      Completes e u (.ctrxor nb) { u with res := keep (u.opa ^^^ e u.cb) nb, cb := Machine.inc32 u.cb }
  | taggen (clear : u.err = .clear) (keyed : u.hvalid = true) (allowed : tagAllowed u = true) :
      Completes e u .taggen { u with res := u.y ^^^ e u.cb }
  | tagMatch (clear : u.err = .clear) (keyed : u.hvalid = true) (allowed : tagAllowed u = true)
      (same : tagEqual u.opa (u.y ^^^ e u.cb) = true) : Completes e u .tagcmp { u with res := 0, tagok := true }
  | tagMismatch (clear : u.err = .clear) (keyed : u.hvalid = true) (allowed : tagAllowed u = true)
      (differs : tagEqual u.opa (u.y ^^^ e u.cb) = false) :
      Completes e u .tagcmp { u with res := 0, tagok := false, err := .auth }
  | clrerr : Completes e u .clrerr (acknowledge u)
  | sreset : Completes e u .sreset GhctrUnit.reset

/-- R11, R75: a command is refused by the faulted unit, or one of its checks records a fault and nothing else, or it
completes. No check records `ERR_AUTH` (R201). -/
def CommandOutcome (e : Block → Block) (u : GhctrUnit) (i : Instr) (v : GhctrUnit) : Prop :=
  (u.err ≠ .clear ∧ v = u) ∨ (∃ c, c ≠ .auth ∧ v = raise c u) ∨ Completes e u i v

theorem commandOutcome_completed {e : Block → Block} {u v : GhctrUnit} {i : Instr} (h : Completes e u i v) :
    CommandOutcome e u i v := .inr (.inr h)

theorem commandOutcome_unlessFaulted {e : Block → Block} {u k : GhctrUnit} {i : Instr}
    (hk : u.err = .clear → CommandOutcome e u i k) : CommandOutcome e u i (unlessFaulted u k) := by
  by_cases hf : u.err = .clear
  · rw [unlessFaulted_clear k hf]; exact hk hf
  · rw [unlessFaulted_faulted k hf]; exact .inl ⟨hf, rfl⟩

theorem commandOutcome_requireElse {e : Block → Block} {u k : GhctrUnit} {i : Instr} {c : Bool} {f : ErrCode}
    (hf : f ≠ .auth) (hk : c = true → CommandOutcome e u i k) : CommandOutcome e u i (requireElse c f u k) := by
  cases hc : c with
  | false => rw [requireElse_fail f u k rfl]; exact .inr (.inl ⟨f, hf, rfl⟩)
  | true => rw [requireElse_pass f u k rfl]; exact hk hc

/-- The comparison of `TAGCMP`, once its checks have passed. -/
theorem commandOutcome_tagcmp {e : Block → Block} {u : GhctrUnit} (clear : u.err = .clear) (keyed : u.hvalid = true)
    (allowed : tagAllowed u = true) :
    CommandOutcome e u .tagcmp
      (if tagEqual u.opa (u.y ^^^ e u.cb) then { u with res := 0, tagok := true }
       else raise .auth { u with res := 0, tagok := false }) := by
  cases hq : tagEqual u.opa (u.y ^^^ e u.cb) with
  | true => exact commandOutcome_completed (.tagMatch clear keyed allowed hq)
  | false =>
    have hraise : raise .auth { u with res := 0, tagok := false } = { u with res := 0, tagok := false, err := .auth } :=
      if_pos clear
    rw [if_neg Bool.false_ne_true, hraise]
    exact commandOutcome_completed (.tagMismatch clear keyed allowed hq)

/-- The command, inverted: its checks in the order of R75, then its effect. -/
theorem exec_cases {i : Instr} {s t : State} (h : exec i s = .next t) :
    CommandOutcome s.cipherAt s.unit i t.unit := by
  have hnb : ErrCode.nb ≠ .auth := nofun
  have hnoh : ErrCode.noh ≠ .auth := nofun
  have hseq : ErrCode.seq ≠ .auth := nofun
  have hlen : ErrCode.len ≠ .auth := nofun
  cases i with
  | nop => cases h; exact commandOutcome_completed .nop
  | clrerr => cases h; exact commandOutcome_completed .clrerr
  | sreset => cases h; exact commandOutcome_completed .sreset
  | gfmul => cases h; exact commandOutcome_unlessFaulted fun hf => commandOutcome_completed (.gfmul hf)
  | ghinit => cases h; exact commandOutcome_unlessFaulted fun hf => commandOutcome_completed (.ghinit hf)
  | inc32 => cases h; exact commandOutcome_unlessFaulted fun hf => commandOutcome_completed (.inc32 hf)
  | hload =>
    cases h
    exact commandOutcome_unlessFaulted fun hf => commandOutcome_requireElse hseq fun hl =>
      commandOutcome_completed (.hload hf hl)
  | hkey =>
    cases h
    exact commandOutcome_unlessFaulted fun hf => commandOutcome_requireElse hseq fun hl =>
      commandOutcome_completed (.hkey hf hl)
  | hmul =>
    cases h
    exact commandOutcome_unlessFaulted fun hf => commandOutcome_requireElse hnoh fun hk =>
      commandOutcome_completed (.hmul hf hk)
  | ctrxor nb =>
    cases h
    exact commandOutcome_unlessFaulted fun hf => commandOutcome_requireElse hnb fun hn =>
      commandOutcome_completed (.ctrxor hf hn)
  | ghaad nb =>
    cases h
    exact commandOutcome_unlessFaulted fun hf => commandOutcome_requireElse hnb fun hn =>
      commandOutcome_requireElse hnoh fun hk => commandOutcome_requireElse hseq fun ha =>
      commandOutcome_requireElse hlen fun hl => commandOutcome_completed (.ghaad hf hn hk ha hl)
  | ghct nb =>
    cases h
    exact commandOutcome_unlessFaulted fun hf => commandOutcome_requireElse hnb fun hn =>
      commandOutcome_requireElse hnoh fun hk => commandOutcome_requireElse hseq fun ha =>
      commandOutcome_requireElse hlen fun hl => commandOutcome_completed (.ghct hf hn hk ha hl)
  | ghlen =>
    cases h
    exact commandOutcome_unlessFaulted fun hf => commandOutcome_requireElse hnoh fun hk =>
      commandOutcome_requireElse hseq fun ho => commandOutcome_completed (.ghlen hf hk ho)
  | taggen =>
    cases h
    exact commandOutcome_unlessFaulted fun hf => commandOutcome_requireElse hnoh fun hk =>
      commandOutcome_requireElse hseq fun ha => commandOutcome_completed (.taggen hf hk ha)
  | tagcmp =>
    cases h
    exact commandOutcome_unlessFaulted fun hf => commandOutcome_requireElse hnoh fun hk =>
      commandOutcome_requireElse hseq fun ha => commandOutcome_tagcmp hf hk ha

/-! ### Length counters (41_ghash.md R126, R127; 10_state.md R37) -/

theorem chunkBits_toNat (nb : Count) : (chunkBits nb).toNat = 8 * nb.toNat := by
  have := nb.isLt
  simp only [chunkBits, BitVec.toNat_ofNat]
  omega

/-- A chunk that passes the length check is counted without overflow. -/
theorem counter_add_toNat {bits : BitCount} {nb : Count} (h : lengthFits bits nb = true) :
    (bits + chunkBits nb).toNat = bits.toNat + 8 * nb.toNat := by
  have hle := (lengthFits_iff bits nb).1 h
  rw [BitVec.toNat_add, chunkBits_toNat]
  omega

theorem counter_add_whole {bits : BitCount} {nb : Count} (h : lengthFits bits nb = true) (hw : bits.toNat % 8 = 0) :
    (bits + chunkBits nb).toNat % 8 = 0 := by
  rw [counter_add_toNat h]; omega

/-- A legal chunk has at least one byte, so its counter is no longer 0. -/
theorem counter_add_ne_zero {bits : BitCount} {nb : Count} (h : lengthFits bits nb = true)
    (hn : countLegal nb = true) : bits + chunkBits nb ≠ 0 := by
  intro h0
  have hpos := ((countLegal_iff nb).1 hn).1
  have hsum := counter_add_toNat h
  rw [h0] at hsum
  simp only [BitVec.ofNat_eq_ofNat, BitVec.toNat_ofNat, Nat.zero_mod] at hsum
  omega

/-! ### The invariant of the unit, part by part -/

/-- The invariant does not read `OPA`, `OPB`, `CB`, and reads `RES` and `ERR` only while `ERR` is `ERR_AUTH`. -/
theorem unitInvariant_frame {u : GhctrUnit} (h : UnitInvariant u) (opa opb res cb : Block) (err : ErrCode)
    (hauth : err = .auth → u.err = .auth ∧ res = u.res) :
    UnitInvariant { u with opa := opa, opb := opb, res := res, cb := cb, err := err } where
  table := h.table
  counters := h.counters
  phases := ⟨h.phases.idle_empty, h.phases.aad_no_ciphertext, h.phases.ct_some_ciphertext, h.phases.keyless_empty,
    h.phases.keyless_phase⟩
  tags := ⟨h.tags.match_done, fun he => by
    obtain ⟨hu, rfl⟩ := hauth he
    exact h.tags.rejected hu⟩

/-- Recording any other fault than `ERR_AUTH`, or none, keeps the invariant. -/
theorem unitInvariant_err {u : GhctrUnit} (h : UnitInvariant u) {e : ErrCode} (he : e ≠ .auth) :
    UnitInvariant { u with err := e } :=
  unitInvariant_frame h _ _ _ _ e fun hc => absurd hc he

theorem unitInvariant_raise {u : GhctrUnit} (h : UnitInvariant u) {e : ErrCode} (he : e ≠ .auth) :
    UnitInvariant (raise e u) := by
  rcases raise_cases e u with ⟨-, hr⟩ | ⟨-, hr⟩ <;> rw [hr]
  · exact unitInvariant_err h he
  · exact h

/-- The host's own registers (R21, R22, R36) are free. -/
theorem unitInvariant_hostWrite {u : GhctrUnit} (h : UnitInvariant u) (opa opb cb : Block) :
    UnitInvariant { u with opa := opa, opb := opb, cb := cb } :=
  unitInvariant_frame h opa opb _ cb _ fun he => ⟨he, rfl⟩

/-- A unit that is not faulted may hold any result and any counter block. -/
theorem unitInvariant_result {u : GhctrUnit} (h : UnitInvariant u) (clear : u.err = .clear) (res cb : Block) :
    UnitInvariant { u with res := res, cb := cb } :=
  unitInvariant_frame h _ _ res cb _ fun he => absurd (clear.symm.trans he) nofun

/-- Under a loaded subkey only the three phases of a message constrain the counters. -/
theorem phaseConsistent_of_keyed {u : GhctrUnit} (keyed : u.hvalid = true)
    (idle : u.phase = .idle → u.y = 0 ∧ u.lena = 0 ∧ u.lenc = 0) (aad : u.phase = .aad → u.lenc = 0)
    (ct : u.phase = .ct → u.lenc ≠ 0) : PhaseConsistent u :=
  ⟨idle, aad, ct, fun hk => absurd (keyed.symm.trans hk) nofun, fun hk => absurd (keyed.symm.trans hk) nofun⟩

/-- Off the faulted state only a reported match constrains the unit. -/
theorem tagConsistent_of_clear {u : GhctrUnit} (clear : u.err = .clear)
    (match_done : u.tagok = true → u.phase = .done ∧ u.hvalid = true) : TagConsistent u :=
  ⟨match_done, fun he => absurd (clear.symm.trans he) nofun⟩

/-- R30: no match is reported while a message is open. -/
theorem tagok_ne_true_of_open {u : GhctrUnit} (h : UnitInvariant u) (hp : u.phase = .aad ∨ u.phase = .ct) :
    u.tagok ≠ true := by
  intro hm
  obtain ⟨hdone, -⟩ := h.tags.match_done hm
  rw [hdone] at hp
  exact hp.elim nofun nofun

theorem unitInvariant_reset : UnitInvariant GhctrUnit.reset where
  table := by unfold TableMatches; decide
  counters := ⟨rfl, rfl⟩
  phases := ⟨fun _ => ⟨rfl, rfl, rfl⟩, fun _ => rfl, nofun, fun _ => ⟨rfl, rfl, rfl, rfl⟩, fun _ => .inl rfl⟩
  tags := ⟨nofun, nofun⟩

/-- R101, R102: `H` and `TBL` are written together. -/
theorem unitInvariant_loadSubkey {u : GhctrUnit} (h : UnitInvariant u) (clear : u.err = .clear) (k : Block) :
    UnitInvariant (loadSubkey k u) where
  table := rfl
  counters := h.counters
  phases := phaseConsistent_of_keyed rfl h.phases.idle_empty h.phases.aad_no_ciphertext h.phases.ct_some_ciphertext
  tags := tagConsistent_of_clear clear fun hm => ⟨(h.tags.match_done hm).1, rfl⟩

/-- R125: a message may begin without a subkey; then `H` is still 0. -/
theorem unitInvariant_ghinit {u : GhctrUnit} (h : UnitInvariant u) (clear : u.err = .clear) :
    UnitInvariant { u with y := 0, lena := 0, lenc := 0, phase := .aad, tagok := false } where
  table := h.table
  counters := ⟨rfl, rfl⟩
  phases := ⟨nofun, fun _ => rfl, nofun, fun hk => ⟨(h.phases.keyless_empty hk).1, rfl, rfl, rfl⟩, fun _ => .inr rfl⟩
  tags := tagConsistent_of_clear clear nofun

/-- R126: AAD is absorbed in phase `AAD` only, where a counter above 0 is no contradiction. -/
theorem unitInvariant_ghaad {u : GhctrUnit} (h : UnitInvariant u) {nb : Count} (b : Block) (clear : u.err = .clear)
    (keyed : u.hvalid = true) (allowed : aadAllowed u = true) (fits : lengthFits u.lena nb = true) :
    UnitInvariant { absorb b u with lena := u.lena + chunkBits nb } := by
  obtain ⟨hp, -⟩ := (aadAllowed_iff u).1 allowed
  exact {
    table := h.table
    counters := ⟨counter_add_whole fits h.counters.1, h.counters.2⟩
    phases := phaseConsistent_of_keyed keyed (fun hi => absurd (hp.symm.trans hi) nofun) h.phases.aad_no_ciphertext
      h.phases.ct_some_ciphertext
    tags := tagConsistent_of_clear clear h.tags.match_done }

/-- R127: the first chunk of ciphertext enters `CT`, and is not empty. -/
theorem unitInvariant_ghct {u : GhctrUnit} (h : UnitInvariant u) {nb : Count} (b : Block) (clear : u.err = .clear)
    (legal : countLegal nb = true) (keyed : u.hvalid = true) (allowed : ctAllowed u = true)
    (fits : lengthFits u.lenc nb = true) :
    UnitInvariant { absorb b u with lenc := u.lenc + chunkBits nb, phase := .ct } := by
  obtain ⟨hp, -⟩ := (ctAllowed_iff u).1 allowed
  exact {
    table := h.table
    counters := ⟨h.counters.1, counter_add_whole fits h.counters.2⟩
    phases := phaseConsistent_of_keyed keyed nofun nofun fun _ => counter_add_ne_zero fits legal
    tags := tagConsistent_of_clear clear fun hm => (tagok_ne_true_of_open h hp hm).elim }

/-- R128: the length block leads to `DONE`, the phase in which a match may stand. -/
theorem unitInvariant_ghlen {u : GhctrUnit} (h : UnitInvariant u) (b : Block) (clear : u.err = .clear)
    (keyed : u.hvalid = true) : UnitInvariant { absorb b u with phase := .done } where
  table := h.table
  counters := h.counters
  phases := phaseConsistent_of_keyed keyed nofun nofun nofun
  tags := tagConsistent_of_clear clear fun _ => ⟨rfl, keyed⟩

/-- R158: what `TAGCMP` writes, in `DONE` and under a subkey: a match without a fault, or a mismatch. -/
theorem unitInvariant_tagcmp {u : GhctrUnit} (h : UnitInvariant u) (keyed : u.hvalid = true)
    (allowed : tagAllowed u = true) (ok : Bool) (err : ErrCode) (hauth : err = .auth → ok = false) :
    UnitInvariant { u with res := 0, tagok := ok, err := err } := by
  have hp := (tagAllowed_iff u).1 allowed
  exact {
    table := h.table
    counters := h.counters
    phases := ⟨h.phases.idle_empty, h.phases.aad_no_ciphertext, h.phases.ct_some_ciphertext, h.phases.keyless_empty,
      h.phases.keyless_phase⟩
    tags := ⟨fun _ => ⟨hp, keyed⟩, fun he => ⟨hauth he, rfl, hp, keyed⟩⟩ }

/-- Each completing command against the part lemma of what it writes. -/
theorem completes_keeps_unitInvariant {e : Block → Block} {u v : GhctrUnit} {i : Instr} (h : UnitInvariant u)
    (hc : Completes e u i v) : UnitInvariant v := by
  cases hc with
  | nop => exact h
  | gfmul clear | hmul clear | inc32 clear | ctrxor clear | taggen clear => exact unitInvariant_result h clear _ _
  | hload clear | hkey clear => exact unitInvariant_loadSubkey h clear _
  | ghinit clear => exact unitInvariant_ghinit h clear
  | ghaad clear _ keyed allowed fits => exact unitInvariant_ghaad h _ clear keyed allowed fits
  | ghct clear legal keyed allowed fits => exact unitInvariant_ghct h _ clear legal keyed allowed fits
  | ghlen clear keyed => exact unitInvariant_ghlen h _ clear keyed
  | tagMatch clear keyed allowed =>
    exact unitInvariant_tagcmp h keyed allowed true u.err fun he => absurd (clear.symm.trans he) nofun
  | tagMismatch _ keyed allowed => exact unitInvariant_tagcmp h keyed allowed false .auth fun _ => rfl
  | clrerr => exact unitInvariant_err h nofun
  | sreset => exact unitInvariant_reset

theorem exec_keeps_unitInvariant {i : Instr} {s t : State} (h : UnitInvariant s.unit) (hx : exec i s = .next t) :
    UnitInvariant t.unit := by
  rcases exec_cases hx with ⟨-, hv⟩ | ⟨c, hc, hv⟩ | hc
  · rw [hv]; exact h
  · rw [hv]; exact unitInvariant_raise h hc
  · exact completes_keeps_unitInvariant h hc

/-- Settles O44: of the cases of a step (`step_cases`), a command is the one that can break the invariant, and does not
(`exec_keeps_unitInvariant`). -/
theorem stepKeepsTheUnitInvariant : Obligations.StepKeepsTheUnitInvariant := by
  intro s t h hstep
  rcases step_cases hstep with hv | hv | hv | hv | ⟨v, _, -, hv⟩ | ⟨v, _, -, hv⟩ | ⟨v, _, -, hv⟩ | ⟨_, i, rest, -, hx⟩
  case inr.inr.inr.inr.inr.inr.inr => exact exec_keeps_unitInvariant (s := { s with inputs := rest }) h hx
  all_goals rw [hv]
  · exact h
  · exact unitInvariant_reset
  · exact unitInvariant_raise h nofun
  · exact unitInvariant_raise h nofun
  all_goals exact unitInvariant_hostWrite h _ _ _

/-- Settles O45. -/
theorem resetMeetsTheUnitInvariant : Obligations.ResetMeetsTheUnitInvariant := unitInvariant_reset

end Sys2Proof.Machine
end

section
/-! PROOFS. Who writes what (spec 10_state.md R42), the decoded command of a step (R24, R25), the fields of `STATUS`
(R26, R27), and what reset leaves (R40). -/

namespace Sys2Proof.Machine

/-! ### Who writes what (10_state.md R21, R22, R42) -/

/-- A command changes the unit alone. -/
theorem exec_frame {i : Instr} {s t : State} (h : exec i s = .next t) :
    t.cipher = s.cipher ∧ t.inputs = s.inputs ∧ t.replies = s.replies := by
  obtain ⟨u, hu⟩ := exec_next i s
  cases h.symm.trans hu
  exact ⟨rfl, rfl, rfl⟩

/-- Settles O42: a command that is refused or faults leaves every component but `ERR`, and one that completes writes
the components its rule of `Completes` names. -/
theorem commandsWriteOnlyTheirComponents : Obligations.CommandsWriteOnlyTheirComponents := by
  intro i s t hx hi
  obtain ⟨hcipher, hinputs, hreplies⟩ := exec_frame hx
  rw [hcipher, hinputs, hreplies]
  rcases exec_cases hx with ⟨-, hv⟩ | ⟨c, -, hv⟩ | hc
  · simp [hv]
  · simp [hv]
  generalize t.unit = v at hc ⊢
  cases hc with
  | sreset => exact absurd rfl hi
  -- nothing, or `ERR` alone
  | nop | clrerr => simp
  -- `RES`, with `TAGOK` or with `CB`
  | gfmul | hmul | taggen | tagMatch | tagMismatch | ctrxor => simp
  -- the subkey
  | hload | hkey => simp
  -- the message: `Y`, the counters, `PHASE`, `TAGOK`
  | ghinit | ghaad | ghct | ghlen => simp
  -- `CB` alone
  | inc32 => simp

/-- Settles O43: of the cases of a step only the host's two writes, a reset and `SRESET` touch an operand. -/
theorem operandsChangeOnlyByTheHost : Obligations.OperandsChangeOnlyByTheHost := by
  intro s t hstep
  rcases step_cases hstep with hv | hv | hv | hv | ⟨v, r, hin, hv⟩ | ⟨v, r, hin, hv⟩ | ⟨v, r, -, hv⟩ | ⟨w, i, r, -, hx⟩
  · simp [hv]
  · exact ⟨fun _ => .inr hv, fun _ => .inr hv⟩
  · simp [hv]
  · simp [hv]
  · exact ⟨fun _ => .inl ⟨v, r, hin, by rw [hv]⟩, by simp [hv]⟩
  · exact ⟨by simp [hv], fun _ => .inl ⟨v, r, hin, by rw [hv]⟩⟩
  · simp [hv]
  · by_cases hi : i = .sreset
    · subst hi; cases hx; exact ⟨fun _ => .inr rfl, fun _ => .inr rfl⟩
    · obtain ⟨ha, hb, -⟩ := commandsWriteOnlyTheirComponents i _ t hx hi
      exact ⟨fun h => absurd ha h, fun h => absurd hb h⟩

/-! ### The command a step runs (10_state.md R24, R25) -/

/-- R75 step 3, R205: the check is part of every meaning, so a faulted unit does nothing on a command other than
`CLRERR` and `SRESET`. -/
theorem exec_refused {i : Instr} {s : State} (hf : s.unit.err ≠ .clear) (hc : i ≠ .clrerr) (hs : i ≠ .sreset) :
    exec i s = .next s := by
  have hrefuse : ∀ k, Host.Outcome.next { s with unit := unlessFaulted s.unit k } = (.next s : Outcome) := fun k => by
    rw [unlessFaulted_faulted k hf]
  cases i with
  | nop => rfl
  | clrerr => exact absurd rfl hc
  | sreset => exact absurd rfl hs
  | _ => exact hrefuse _

/-- R25, R75: writing a word that decodes runs the command it decodes to, on a faulted unit too. -/
theorem executeWord_of_decode {w : Word} {i : Instr} (hi : decode w = .ok i) (s : State) :
    executeWord w s = exec i s := by
  rcases executeWord_cases w s with ⟨j, hj, hx⟩ | ⟨hf, hc, hs, hx⟩ | ⟨e, -, he, -⟩
  · cases hi.symm.trans hj; exact hx
  · have hw : encode i = w := encode_of_decode hi
    rw [hx, exec_refused hf]
    · rintro rfl; exact hc hw.symm
    · rintro rfl; exact hs hw.symm
  · cases hi.symm.trans he

/-- Settles O6: the step takes the input, and the write is the command (`executeWord_of_decode`). -/
theorem stepRunsTheDecodedCommand : Obligations.StepRunsTheDecodedCommand := by
  intro s w i rest hin hi
  calc step s = performOp (.write (.cmd w)) { s with inputs := rest } := step_op hin
    _ = exec i { s with inputs := rest } := executeWord_of_decode hi _

/-! ### The fields of `STATUS` (10_state.md R26, R27) -/

/-- A field of `n` bits shifted to its place, bit `k`, weighs `2^k`. -/
theorem placedField_toNat {n : Nat} (b : BitVec n) (k : Nat) (h : n + k ≤ 32) :
    (b.setWidth 32 <<< k).toNat = 2 ^ k * b.toNat := by
  have hlt : 2 ^ k * b.toNat < 2 ^ 32 :=
    calc 2 ^ k * b.toNat < 2 ^ k * 2 ^ n := Nat.mul_lt_mul_of_pos_left b.isLt (Nat.two_pow_pos k)
      _ = 2 ^ (n + k) := by rw [← Nat.pow_add, Nat.add_comm]
      _ ≤ 2 ^ 32 := Nat.pow_le_pow_right (by decide) h
  have hb : b.toNat < 2 ^ 32 := lt_of_le_of_lt (Nat.le_mul_of_pos_left _ (Nat.two_pow_pos k)) hlt
  rw [BitVec.toNat_shiftLeft, BitVec.toNat_setWidth, Nat.mod_eq_of_lt hb, Nat.shiftLeft_eq, Nat.mul_comm,
    Nat.mod_eq_of_lt hlt]

/-- R26: the four fields do not overlap, so the word is their weighted sum. -/
theorem statusWord_toNat (u : GhctrUnit) : (statusWord u).toNat = 2 ^ 8 * u.err.code.toNat +
    (2 ^ 3 * (flagBit u.tagok).toNat + (2 ^ 1 * u.phase.code.toNat + (flagBit u.hvalid).toNat)) := by
  have hv := (flagBit u.hvalid).isLt
  have ph := u.phase.code.isLt
  have tk := (flagBit u.tagok).isLt
  rw [Nat.two_pow_add_eq_or_of_lt (by omega), Nat.two_pow_add_eq_or_of_lt (by omega),
    Nat.two_pow_add_eq_or_of_lt (by omega)]
  simp only [statusWord, BitVec.toNat_or, placedField_toNat _ _ (show 2 + 1 ≤ 32 by decide),
    placedField_toNat _ _ (show 1 + 3 ≤ 32 by decide), placedField_toNat _ _ (show 4 + 8 ≤ 32 by decide),
    BitVec.toNat_setWidth_of_le (show 1 ≤ 32 by decide)]
  ac_rfl

/-- The bits `k` to `k + n - 1` of a word, as a number. -/
theorem extractLsb'_eq_of_toNat {st : Word} {k n : Nat} {v : BitVec n} (h : st.toNat / 2 ^ k % 2 ^ n = v.toNat) :
    st.extractLsb' k n = v := by
  apply BitVec.eq_of_toNat_eq
  rw [BitVec.extractLsb'_toNat, Nat.shiftRight_eq_div_pow, h]

/-- Settles O11: each field is read off the sum (`statusWord_toNat`); the codes are those of R27 and R201. -/
theorem statusLayout : Obligations.StatusLayout := by
  intro u
  have hv := (flagBit u.hvalid).isLt
  have ph := u.phase.code.isLt
  have tk := (flagBit u.tagok).isLt
  have er := u.err.code.isLt
  have hword := statusWord_toNat u
  have hvalid : (statusWord u).extractLsb' 0 1 = flagBit u.hvalid := extractLsb'_eq_of_toNat (by omega)
  have phase : (statusWord u).extractLsb' 1 2 = u.phase.code := extractLsb'_eq_of_toNat (by omega)
  have tagok : (statusWord u).extractLsb' 3 1 = flagBit u.tagok := extractLsb'_eq_of_toNat (by omega)
  have low : (statusWord u).extractLsb' 4 4 = 0#4 := extractLsb'_eq_of_toNat (by rw [BitVec.toNat_zero]; omega)
  have err : (statusWord u).extractLsb' 8 4 = u.err.code := extractLsb'_eq_of_toNat (by omega)
  have high : (statusWord u).extractLsb' 12 20 = 0#20 := extractLsb'_eq_of_toNat (by rw [BitVec.toNat_zero]; omega)
  exact ⟨hvalid, phase, tagok, low, err, high⟩

/-! ### Reset (10_state.md R40) -/

theorem lookup_replicate (b : Block) (n : Nibble) : lookup (Vector.replicate 16 b) n = b := by
  simp [lookup, Vector.get]

/-- Settles O12: the witness is `GhctrUnit.reset`. -/
theorem resetLeavesEverythingZero : Obligations.ResetLeavesEverythingZero :=
  ⟨GhctrUnit.reset, rfl, rfl, rfl, rfl, lookup_replicate 0, rfl, rfl, rfl, rfl, rfl, rfl, rfl, rfl, rfl, rfl,
    fun _ => rfl, fun _ => rfl⟩

/-- Settles O47: no chunk has been absorbed, and the accumulator is 0. -/
theorem resetMeetsTheAccumulatorOfAMessage : Obligations.ResetMeetsTheAccumulatorOfAMessage where
  aad_fits := by decide
  ciphertext_fits := by decide
  aad_counted := rfl
  ciphertext_counted := rfl
  accumulated := ⟨rfl, rfl, rfl⟩

end Sys2Proof.Machine
end

section
/-! PROOFS. The host port: reads and writes by register number (spec 20_memory.md R53, R54), and the order in which host
operations are performed (20_memory.md R60, 00_scope.md R10). -/

namespace Sys2Proof.Machine

/-! ### Running a queue is issuing its operations (20_memory.md R60) -/

/-- R10: no command looks at what the host will issue next: a meaning reads the unit and the cipher alone. -/
theorem exec_withInputs {i : Instr} {s t : State} (h : exec i s = .next t) (q : List Input) :
    exec i { s with inputs := q } = .next { t with inputs := q } := by
  cases i <;> cases h <;> rfl

theorem executeWord_withInputs {w : Word} {s t : State} (h : executeWord w s = .next t) (q : List Input) :
    executeWord w { s with inputs := q } = .next { t with inputs := q } := by
  rcases executeWord_cases w s with ⟨i, hi, hx⟩ | ⟨hf, hc, hs, hx⟩ | ⟨e, hf, he, hx⟩ <;> rw [hx] at h
  · rw [executeWord_of_decode hi]; exact exec_withInputs h q
  · cases h; exact executeWord_refused hf hc hs
  · cases h; exact executeWord_undecoded hf he

/-- R10: a host operation does the same whatever stands behind it in the queue, and leaves that as it is. -/
theorem performOp_withInputs {o : HostOp} {s t : State} (h : performOp o s = .next t) (q : List Input) :
    performOp o { s with inputs := q } = .next { t with inputs := q } := by
  cases o with
  | read r => cases h; rfl
  | write w =>
    cases w with
    | cmd w => exact executeWord_withInputs h q
    | _ => cases h; rfl

theorem issue_cons {o : HostOp} {s t : State} (h : performOp o s = .next t) (os : List HostOp) :
    issue (o :: os) s = issue os t := by
  simp only [issue, h, andThen]

/-- R60: issuing operations leaves the machine's own queue as it is. -/
theorem issue_inputs {os : List HostOp} {s t : State} (h : issue os s = .next t) : t.inputs = s.inputs := by
  induction os generalizing s with
  | nil => cases h; rfl
  | cons o os ih =>
    obtain ⟨u, r, ho⟩ := performOp_next o s
    exact (ih ((issue_cons ho os).symm.trans h)).trans rfl

/-- R60: as many steps as there are operations at the front of the queue issue them one after another, and leave the
rest of the queue. -/
theorem run_issue {os : List HostOp} {s t : State} (h : issue os s = .next t) (q : List Input) :
    Sys2Proof.core.run os.length { s with inputs := os.map .op ++ q } = .next { t with inputs := q } := by
  induction os generalizing s with
  | nil => cases h; rfl
  | cons o os ih =>
    obtain ⟨u, r, ho⟩ := performOp_next o s
    have hstep : step { s with inputs := (o :: os).map .op ++ q } =
        .next { s with unit := u, replies := r, inputs := os.map .op ++ q } :=
      (step_op rfl).trans (performOp_withInputs ho _)
    exact (core_run_next hstep).trans (ih ((issue_cons ho os).symm.trans h))

/-- Settles O14: `run_issue`, with nothing behind the operations in the queue. -/
theorem runningTheQueueIssuesItsOperations : Obligations.RunningTheQueueIssuesItsOperations := by
  intro os s t hs h
  have hrun := run_issue h []
  rw [List.append_nil] at hrun
  have ht : { t with inputs := [] } = t := by rw [← hs, ← issue_inputs h]
  exact hrun.trans (congrArg _ ht)

/-! ### A raised fault, in each of its two cases (60_exceptions.md R204) -/

theorem raise_of_clear {u : GhctrUnit} (e : ErrCode) (h : u.err = .clear) : raise e u = { u with err := e } := if_pos h

theorem raise_of_faulted {u : GhctrUnit} (e : ErrCode) (h : u.err ≠ .clear) : raise e u = u := if_neg h

/-! ### Register numbers (10_state.md R41, 20_memory.md R50) -/

/-- Every number names a register that has it. -/
theorem number_ofNumber (n : BitVec 4) : (Reg.ofNumber n).number = n := by
  revert n; decide

/-- A register is determined by its number. -/
theorem ofNumber_number (r : Reg) : Reg.ofNumber r.number = r := by
  cases r with
  | unmapped k => revert k; decide
  | _ => rfl

theorem eq_ofNumber_of_number_eq {r : Reg} {n : BitVec 4} (h : r.number = n) : r = Reg.ofNumber n := by
  rw [← h, ofNumber_number]

/-- The registers a read of which faults are `CMD` and the unmapped ones. -/
theorem eq_cmd_or_unmapped_of_number {r : Reg} (h : r.number = 0x0 ∨ 0x9 ≤ r.number) :
    r = .cmd ∨ ∃ k, r = .unmapped k := by
  cases r with
  | cmd => exact .inl rfl
  | unmapped k => exact .inr ⟨k, rfl⟩
  | _ => exact absurd h (by decide)

/-! ### Reads (20_memory.md R53) -/

/-- A read that leaves the unit as it is appends its value to the replies, and does nothing else. -/
theorem performOp_read_value {r : Reg} {s : State} {v : PortValue} (h : readReg r s.unit = (s.unit, v)) :
    performOp (.read r) s = .next { s with replies := s.replies ++ [v] } := by
  simp only [performOp, readOp, h]

/-- A read of `CMD` or of an unmapped number returns 0 and raises `ERR_ACCESS`. -/
theorem performOp_read_access {r : Reg} (h : r = .cmd ∨ ∃ k, r = .unmapped k) (s : State) :
    performOp (.read r) s =
      .next { s with unit := raise .access s.unit, replies := s.replies ++ [.zero] } := by
  rcases h with rfl | ⟨k, rfl⟩ <;> rfl

/-- Settles O7: the number fixes the register (`eq_ofNumber_of_number_eq`, `eq_cmd_or_unmapped_of_number`), and the
register the outcome of its read. -/
theorem readReturnsTheRegister : Obligations.ReadReturnsTheRegister := by
  refine fun s => ⟨fun r v h => ?_, fun r h => ?_, rfl, number_ofNumber⟩
  · apply performOp_read_value
    rcases h with ⟨hr, rfl⟩ | ⟨hr, rfl⟩ | ⟨hr, rfl⟩ | ⟨hr, rfl⟩ | ⟨hr, rfl⟩ | ⟨hr, rfl⟩ | ⟨hr, rfl⟩ | ⟨hr, rfl⟩ <;>
      rw [eq_ofNumber_of_number_eq hr] <;> rfl
  · have hread := performOp_read_access (eq_cmd_or_unmapped_of_number h) s
    exact ⟨fun hc => by rw [hread, raise_of_clear _ hc], fun hf => by rw [hread, raise_of_faulted _ hf]⟩

/-! ### Writes (20_memory.md R54) -/

/-- A write to a register other than `CMD`, `OPA`, `OPB` and `CB` raises `ERR_ACCESS` and stores nothing. -/
theorem performOp_write_access {w : RegWrite} (hcmd : w.reg.number ≠ 0x0) (hopa : w.reg.number ≠ 0x2)
    (hopb : w.reg.number ≠ 0x3) (hcb : w.reg.number ≠ 0x6) (s : State) :
    performOp (.write w) s = .next { s with unit := raise .access s.unit } := by
  cases w with
  | cmd v => exact absurd rfl hcmd
  | opa v => exact absurd rfl hopa
  | opb v => exact absurd rfl hopb
  | cb v => exact absurd rfl hcb
  | status v | res v | y v | lena v | lenc v | unmapped k => rfl

/-- A written value fits its register, by its type. -/
theorem regWrite_value_lt {w : RegWrite} {n : Nat} (h : w.reg.width = some n) : w.value < 2 ^ n := by
  cases w with
  | unmapped k => cases h
  | cmd v | status v | opa v | opb v | res v | y v | cb v | lena v | lenc v => cases h; exact v.isLt

/-- Settles O8: a command and the three stores are `performOp` on that write; any other write is an access fault
(`performOp_write_access`), in the two cases of `raise`. -/
theorem writeStoresOrFaults : Obligations.WriteStoresOrFaults := by
  refine fun s => ⟨fun _ => rfl, fun _ => rfl, fun _ => rfl, fun _ => rfl, fun w hcmd hopa hopb hcb => ?_,
    fun _ _ => regWrite_value_lt⟩
  have hwrite := performOp_write_access hcmd hopa hopb hcb s
  exact ⟨fun hc => by rw [hwrite, raise_of_clear _ hc], fun hf => by rw [hwrite, raise_of_faulted _ hf]⟩

end Sys2Proof.Machine
end

section
/-! PROOFS. The command word (spec 30_encoding.md): the decoder and the encoder as inverses of each other (R71, R72,
R74), the dispatch of a word by what makes it illegal (R75, R76), and the triples of host operations (R77). -/

namespace Sys2Proof.Machine

open Sys2Proof.Statements

/-! ### The fields of a word put together from an opcode and a count (30_encoding.md R71) -/

theorem opcodeField_commandWord (opc : BitVec 8) (nb : Count) : opcodeField (commandWord opc nb) = opc := by
  apply BitVec.eq_of_getLsbD_eq
  intro k hk
  simp [opcodeField, commandWord, hk, show k < 32 by omega]

theorem countField_commandWord (opc : BitVec 8) (nb : Count) : countField (commandWord opc nb) = nb := by
  apply BitVec.eq_of_getLsbD_eq
  intro k hk
  simp [countField, commandWord, hk, show 8 + k < 32 by omega]

theorem reservedField_commandWord (opc : BitVec 8) (nb : Count) : reservedField (commandWord opc nb) = 0 := by
  apply BitVec.eq_of_getLsbD_eq
  intro k hk
  have hnb : nb.getLsbD (13 + k - 8) = false := BitVec.getLsbD_of_ge nb _ (by omega)
  have hopc : opc.getLsbD (13 + k) = false := BitVec.getLsbD_of_ge opc _ (by omega)
  simp [reservedField, commandWord, hnb, hopc]

/-! ### The decoder and the encoder, both ways (30_encoding.md R71 to R74) -/

/-- R74: a command is selected by its own opcode and count. -/
theorem selectCommand_opcode_count (i : Instr) : selectCommand i.opcode i.count = .ok i := by
  cases i <;> rfl

/-- R71, R72: the word of a command decodes to it, whatever its `NB` field. -/
theorem decode_encode (i : Instr) : decode (encode i) = .ok i := by
  rw [decode, encode, reservedField_commandWord, opcodeField_commandWord, countField_commandWord, if_pos rfl,
    selectCommand_opcode_count]

theorem decode_eq_ok_iff (w : Word) (i : Instr) : decode w = .ok i ↔ w = encode i :=
  ⟨fun h => (encode_of_decode h).symm, fun h => h ▸ decode_encode i⟩

theorem encode_injective : Function.Injective encode := fun i j h => by
  have hij := decode_encode i
  rw [h, decode_encode j] at hij
  cases hij
  rfl

/-- Settles O1: `encode_of_decode` one way, `decode_encode` the other. -/
theorem decodeInvertsEncode : Obligations.DecodeInvertsEncode := decode_eq_ok_iff

/-- R71: a word is a command's when its fields are: the opcode, the count, and nothing in `RSV`. -/
theorem decode_eq_ok_iff_fields (w : Word) (i : Instr) :
    decode w = .ok i ↔ reservedField w = 0 ∧ opcodeField w = i.opcode ∧ countField w = i.count := by
  rw [decode_eq_ok_iff]
  constructor
  · rintro rfl
    exact ⟨reservedField_commandWord _ _, opcodeField_commandWord _ _, countField_commandWord _ _⟩
  · rintro ⟨hr, ho, hc⟩
    rw [encode, ← ho, ← hc, commandWord_fields hr]

/-! ### The rows of the opcode map (30_encoding.md R74) -/

/-- R74: the full mask of a format-Z row leaves the one word. -/
theorem decode_iff_row (w : Word) (i : Instr) : decode w = .ok i ↔ w &&& 0xFFFFFFFF = encode i := by
  rw [decode_eq_ok_iff, show (0xFFFFFFFF : Word) = BitVec.allOnes 32 from rfl, BitVec.and_allOnes]

/-- A field that lies within a mask is not changed by masking. -/
theorem extractLsb'_masked (w : Word) {m : Word} {k n : Nat} (h : m.extractLsb' k n = BitVec.allOnes n) :
    (w &&& m).extractLsb' k n = w.extractLsb' k n := by
  rw [BitVec.extractLsb'_and, h, BitVec.and_allOnes]

/-- R74: the mask of a format-N row keeps every bit of `OPC` and `RSV`, so a word that fits the row has that opcode and
`RSV = 0`; the count is what the mask leaves out. -/
theorem eq_commandWord_iff_row (w : Word) (opc : BitVec 8) (nb : Count) :
    w = commandWord opc nb ↔ w &&& 0xFFFFE0FF = opc.setWidth 32 ∧ w.extractLsb' 8 5 = nb := by
  constructor
  · rintro rfl
    exact ⟨Laws.FitsRow.count_masked opc nb, countField_commandWord opc nb⟩
  · rintro ⟨hw, rfl⟩
    have hrow : w &&& 0xFFFFE0FF = commandWord opc 0 := by simpa [commandWord] using hw
    have hr : reservedField w = 0 :=
      calc reservedField w = reservedField (w &&& 0xFFFFE0FF) := (extractLsb'_masked w rfl).symm
        _ = 0 := by rw [hrow, reservedField_commandWord]
    have ho : opcodeField w = opc :=
      calc opcodeField w = opcodeField (w &&& 0xFFFFE0FF) := (extractLsb'_masked w rfl).symm
        _ = opc := by rw [hrow, opcodeField_commandWord]
    rw [← ho]
    exact (commandWord_fields hr).symm

theorem opcode_mem_opcodes (i : Instr) : i.opcode ∈ opcodes := by
  cases i <;> simp [Instr.opcode, opcodes]

/-- Settles O2: a format-Z row is one word (`decode_iff_row`), a format-N row an opcode with any count
(`eq_commandWord_iff_row`), and a decoded word has a command's opcode. -/
theorem wordsAreSelectedByMatchAndMask : Obligations.WordsAreSelectedByMatchAndMask := by
  intro w
  have formatN : ∀ i : Instr, decode w = .ok i ↔
      w &&& 0xFFFFE0FF = i.opcode.setWidth 32 ∧ w.extractLsb' 8 5 = i.count :=
    fun i => (decode_eq_ok_iff w i).trans (eq_commandWord_iff_row w _ _)
  refine ⟨decode_iff_row w .nop, decode_iff_row w .gfmul, decode_iff_row w .hload, decode_iff_row w .hkey,
    decode_iff_row w .hmul, decode_iff_row w .ghinit, fun nb => formatN (.ghaad nb), fun nb => formatN (.ghct nb),
    decode_iff_row w .ghlen, decode_iff_row w .inc32, fun nb => formatN (.ctrxor nb), decode_iff_row w .taggen,
    decode_iff_row w .tagcmp, decode_iff_row w .clrerr, decode_iff_row w .sreset, fun hopc i hi => ?_⟩
  obtain ⟨-, ho, -⟩ := (decode_eq_ok_iff_fields w i).1 hi
  exact hopc (ho ▸ opcode_mem_opcodes i)

/-- Settles O3: nine words are the encodings of their commands (`decode_encode`); the other three fail one test each of
the decoder. -/
theorem writtenOutWordsDecode : Obligations.WrittenOutWordsDecode :=
  ⟨decode_encode .nop, decode_encode .gfmul, decode_encode .hkey, decode_encode .ghinit, decode_encode (.ghaad 3),
    decode_encode (.ghct 16), decode_encode (.ctrxor 5), decode_encode .tagcmp, decode_encode .clrerr, rfl, rfl, rfl⟩

/-! ### The commands of the two formats, as lists (30_encoding.md R72, R73, R76) -/

/-- R72: the twelve format-Z commands. -/
def formatZCommands : List Instr :=
  [.nop, .gfmul, .hload, .hkey, .hmul, .ghinit, .ghlen, .inc32, .taggen, .tagcmp, .clrerr, .sreset]

/-- R72: the three format-N commands, each awaiting its byte count. -/
def formatNCommands : List (Count → Instr) := [.ghaad, .ghct, .ctrxor]

/-- R73: the byte counts 1 to 16. -/
def legalCounts : List Count := (List.range 16).map fun k => BitVec.ofNat 5 (k + 1)

/-- R76: the 60 well-formed commands. -/
def legalCommands : List Instr := formatZCommands ++ formatNCommands.flatMap fun c => legalCounts.map c

theorem mem_legalCounts (nb : Count) : nb ∈ legalCounts ↔ countLegal nb = true := by
  revert nb; decide

theorem mem_legalCommands (i : Instr) : i ∈ legalCommands ↔ i.wellFormed = true := by
  cases i with
  | ghaad nb | ghct nb | ctrxor nb =>
    simp [legalCommands, formatZCommands, formatNCommands, mem_legalCounts, Instr.wellFormed]
  | _ => simp [legalCommands, formatZCommands, Instr.wellFormed]

theorem legalCommands_nodup : legalCommands.Nodup := by decide +kernel

/-- R74: the format-N opcodes select a command with every count. -/
theorem exists_formatN {opc : BitVec 8} (h : opc ∈ formatNOpcodes) (nb : Count) :
    ∃ i : Instr, i.opcode = opc ∧ i.count = nb := by
  simp only [formatNOpcodes, List.mem_cons, List.not_mem_nil, or_false] at h
  rcases h with rfl | rfl | rfl
  · exact ⟨.ghaad nb, rfl, rfl⟩
  · exact ⟨.ghct nb, rfl, rfl⟩
  · exact ⟨.ctrxor nb, rfl, rfl⟩

/-- R74: the other opcodes select a command with the count 0. -/
theorem exists_formatZ : ∀ opc ∈ opcodes, opc ∉ formatNOpcodes →
    ∃ i ∈ formatZCommands, i.opcode = opc ∧ i.count = 0 := by
  decide

/-- R72: a command whose opcode is not of format N has the count 0. -/
theorem count_of_formatZ {i : Instr} (h : i.opcode ∉ formatNOpcodes) : i.count = 0 := by
  cases i with
  | ghaad nb | ghct nb | ctrxor nb => simp [Instr.opcode, formatNOpcodes] at h
  | _ => rfl

/-- R73: a command is ill-formed when it is of format N and its count is out of range. -/
theorem wellFormed_eq_false_iff (i : Instr) :
    i.wellFormed = false ↔ i.opcode ∈ formatNOpcodes ∧ (i.count.toNat = 0 ∨ 16 < i.count.toNat) := by
  cases i with
  | ghaad nb | ghct nb | ctrxor nb =>
    rw [← Bool.not_eq_true, Instr.wellFormed, countLegal_iff]
    simp only [Instr.opcode, Instr.count, formatNOpcodes, List.mem_cons, true_or, or_true, true_and]
    omega
  | _ => exact ⟨nofun, fun h => absurd h.1 (by decide)⟩

/-! ### What makes a word illegal, in terms of the decoder (30_encoding.md R75 steps 4 and 5) -/

/-- R75 step 4: the decoder takes every word but those with a bad opcode, a bit set in `RSV`, or a count in format Z. -/
theorem not_badOpcode_iff (w : Word) : ¬ BadOpcode w ↔ ∃ i, decode w = .ok i := by
  simp only [decode_eq_ok_iff_fields]
  constructor
  · intro h
    simp only [BadOpcode, not_or, not_and_or, not_not] at h
    obtain ⟨hopc, hr, hcount⟩ := h
    by_cases hN : opcodeField w ∈ formatNOpcodes
    · obtain ⟨i, ho, hi⟩ := exists_formatN hN (countField w)
      exact ⟨i, hr, ho.symm, hi.symm⟩
    · obtain ⟨i, -, ho, hi⟩ := exists_formatZ _ hopc hN
      exact ⟨i, hr, ho.symm, (hcount.resolve_left hN).trans hi.symm⟩
  · rintro ⟨i, hr, ho, hc⟩ (hbad | hbad | ⟨hN, hbad⟩)
    · exact hbad (ho ▸ opcode_mem_opcodes i)
    · exact hbad hr
    · exact hbad (hc.trans (count_of_formatZ (ho ▸ hN)))

theorem badOpcode_iff (w : Word) : BadOpcode w ↔ ∃ e, decode w = .error e := by
  rw [← not_iff_not, not_badOpcode_iff]
  cases decode w <;> simp

/-- R75 step 5: of the decoded words those with a bad count are the words of ill-formed commands. -/
theorem badCount_iff {w : Word} {i : Instr} (h : decode w = .ok i) : BadCount w ↔ i.wellFormed = false := by
  obtain ⟨-, ho, hc⟩ := (decode_eq_ok_iff_fields w i).1 h
  rw [BadCount, ho, hc, wellFormed_eq_false_iff]

/-! ### The first two checks of a command's own meaning (30_encoding.md R75 steps 5 and 6) -/

/-- R75: an unfaulted unit whose first failing check is `c` records the code of `c`, and nothing else. -/
theorem unlessFaulted_requireElse_fail {u : GhctrUnit} {c : Bool} (e : ErrCode) (k : GhctrUnit) (clear : u.err = .clear)
    (h : c = false) : unlessFaulted u (requireElse c e u k) = { u with err := e } := by
  rw [unlessFaulted_clear _ clear, requireElse_fail e u k h, raise_of_clear e clear]

/-- R75: a check that passes leaves the command to the next one. -/
theorem unlessFaulted_requireElse_pass {u : GhctrUnit} {c : Bool} (e : ErrCode) (k : GhctrUnit) (h : c = true) :
    unlessFaulted u (requireElse c e u k) = unlessFaulted u k := by
  rw [requireElse_pass e u k h]

theorem next_congr_unit {s : State} {u v : GhctrUnit} (h : u = v) :
    (.next { s with unit := u } : Outcome) = .next { s with unit := v } := by
  rw [h]

/-- R75 step 5: a command with a count out of range records `ERR_NB` before it looks at anything else. -/
theorem exec_illFormed {i : Instr} {s : State} (clear : s.unit.err = .clear) (h : i.wellFormed = false) :
    exec i s = .next { s with unit := { s.unit with err := .nb } } := by
  cases i with
  | ghaad nb | ghct nb | ctrxor nb =>
    exact next_congr_unit (unlessFaulted_requireElse_fail .nb _ clear h)
  | _ => cases h

/-- R75 step 6: a well-formed command that needs the subkey records `ERR_NOH` without one. -/
theorem exec_unkeyed {i : Instr} {s : State} (clear : s.unit.err = .clear) (hi : i.wellFormed = true)
    (hsub : i.opcode ∈ subkeyOpcodes) (unkeyed : s.unit.hvalid = false) :
    exec i s = .next { s with unit := { s.unit with err := .noh } } := by
  cases i with
  | hmul | ghlen | taggen | tagcmp =>
    exact next_congr_unit (unlessFaulted_requireElse_fail .noh _ clear unkeyed)
  | ghaad nb | ghct nb =>
    exact next_congr_unit ((unlessFaulted_requireElse_pass .nb _ hi).trans
      (unlessFaulted_requireElse_fail .noh _ clear unkeyed))
  | _ => simp [Instr.opcode, subkeyOpcodes] at hsub

/-- R146: what `CTRXOR` does when its count is legal; it has no other check. -/
theorem exec_ctrxor_legal {nb : Count} {s : State} (clear : s.unit.err = .clear) (legal : countLegal nb = true) :
    exec (.ctrxor nb) s = .next { s with unit := { s.unit with
      res := keep (s.unit.opa ^^^ s.cipherAt s.unit.cb) nb, cb := inc32 s.unit.cb } } :=
  next_congr_unit ((unlessFaulted_requireElse_pass .nb _ legal).trans (unlessFaulted_clear _ clear))

/-! ### Dispatch (30_encoding.md R75, R76) -/

theorem executeWord_badOpcode {w : Word} {s : State} (clear : s.unit.err = .clear) (h : BadOpcode w) :
    executeWord w s = .next { s with unit := { s.unit with err := .opcode } } := by
  obtain ⟨e, he⟩ := (badOpcode_iff w).1 h
  rw [executeWord_undecoded clear he, raise_of_clear .opcode clear]

theorem executeWord_badCount {w : Word} {s : State} (clear : s.unit.err = .clear) (hopc : ¬ BadOpcode w)
    (h : BadCount w) : executeWord w s = .next { s with unit := { s.unit with err := .nb } } := by
  obtain ⟨i, hi⟩ := (not_badOpcode_iff w).1 hopc
  rw [executeWord_of_decode hi, exec_illFormed clear ((badCount_iff hi).1 h)]

/-- A word that passes steps 4 and 5 is the word of a well-formed command. -/
theorem exists_wellFormed {w : Word} (hopc : ¬ BadOpcode w) (hcount : ¬ BadCount w) :
    ∃ i, decode w = .ok i ∧ i.wellFormed = true := by
  obtain ⟨i, hi⟩ := (not_badOpcode_iff w).1 hopc
  rw [badCount_iff hi, Bool.not_eq_false] at hcount
  exact ⟨i, hi, hcount⟩

/-- Settles O4: the steps in their order, each by the lemma on the words it stops. -/
theorem commandWordsAreDispatchedInOrder : Obligations.CommandWordsAreDispatchedInOrder := by
  refine fun w s => ⟨?_, ?_, fun hs hc hf => executeWord_refused hf hc hs, executeWord_badOpcode, executeWord_badCount,
    fun clear hopc hcount hsub unkeyed => ?_, fun clear hopc hcount _ => ?_⟩
  · rintro rfl; exact executeWord_sreset s
  · rintro rfl; exact executeWord_clrerr s
  · obtain ⟨i, hi, hwf⟩ := exists_wellFormed hopc hcount
    obtain ⟨-, ho, -⟩ := (decode_eq_ok_iff_fields w i).1 hi
    rw [executeWord_of_decode hi, exec_unkeyed clear hwf (ho ▸ hsub) unkeyed]
  · obtain ⟨i, hi, hwf⟩ := exists_wellFormed hopc hcount
    exact ⟨i, hi, hwf, executeWord_of_decode hi s⟩

/-! ### Only `NOP` does nothing (30_encoding.md R76) -/

/-- A next state whose unit differs in some component is another state. -/
theorem next_ne_of_component {α : Type} {s : State} {u : GhctrUnit} (component : GhctrUnit → α)
    (h : component u ≠ component s.unit) : (.next { s with unit := u } : Outcome) ≠ .next s := by
  intro heq
  injection heq with hs
  exact h (congrArg (fun t : State => component t.unit) hs)

/-- The machine after reset but for `RES`, which holds 1: every command but `NOP` and `CLRERR` does something on it. -/
def resultOne : State := { State.reset with unit := { GhctrUnit.reset with res := 1 } }

/-- A faulted unit, on which `CLRERR` does something. -/
def faultedState : State := { State.reset with unit := { GhctrUnit.reset with err := .opcode } }

theorem exec_clrerr_changes : exec .clrerr faultedState ≠ .next faultedState :=
  next_ne_of_component GhctrUnit.err (by decide)

/-- Without a subkey the commands that need one fault; each other command writes a component that it changes here. -/
theorem exec_changes {i : Instr} (hnop : i ≠ .nop) (hclr : i ≠ .clrerr) : exec i resultOne ≠ .next resultOne := by
  cases hwf : i.wellFormed with
  | false =>
    rw [exec_illFormed rfl hwf]
    exact next_ne_of_component GhctrUnit.err (by decide)
  | true =>
    by_cases hsub : i.opcode ∈ subkeyOpcodes
    · rw [exec_unkeyed rfl hwf hsub rfl]
      exact next_ne_of_component GhctrUnit.err (by decide)
    cases i with
    | nop => exact absurd rfl hnop
    | clrerr => exact absurd rfl hclr
    | gfmul => exact next_ne_of_component GhctrUnit.res (by decide +kernel)
    | sreset => exact next_ne_of_component GhctrUnit.res (by decide)
    | hload | hkey => exact next_ne_of_component GhctrUnit.hvalid (by decide)
    | ghinit => exact next_ne_of_component GhctrUnit.phase (by decide)
    | inc32 => exact next_ne_of_component GhctrUnit.cb (by decide)
    | ctrxor nb =>
      rw [exec_ctrxor_legal rfl hwf]
      exact next_ne_of_component GhctrUnit.cb (by decide : inc32 0 ≠ 0)
    | hmul | ghaad nb | ghct nb | ghlen | taggen | tagcmp => simp [Instr.opcode, subkeyOpcodes] at hsub

/-- R76: a word other than 0 faults, or is the word of a command other than `NOP`. -/
theorem executeWord_changes {w : Word} (hw : w ≠ 0) : ∃ s, executeWord w s ≠ .next s := by
  by_cases hopc : BadOpcode w
  · refine ⟨resultOne, ?_⟩
    rw [executeWord_badOpcode rfl hopc]
    exact next_ne_of_component GhctrUnit.err (by decide)
  · obtain ⟨i, hi⟩ := (not_badOpcode_iff w).1 hopc
    have hnop : i ≠ .nop := by
      rintro rfl
      exact hw ((decode_eq_ok_iff w .nop).1 hi)
    by_cases hclr : i = .clrerr
    · exact ⟨faultedState, by rw [executeWord_of_decode hi, hclr]; exact exec_clrerr_changes⟩
    · exact ⟨resultOne, by rw [executeWord_of_decode hi]; exact exec_changes hnop hclr⟩

/-- R76: the words of well-formed commands are the 60 encodings of `legalCommands`. -/
theorem mem_legalWords (w : Word) :
    w ∈ legalCommands.map encode ↔ ∃ i : Instr, i.wellFormed = true ∧ w = encode i := by
  simp only [List.mem_map, mem_legalCommands, eq_comm]

/-- Settles O5: the illegal words by the steps that stop them, the legal ones as the list `legalCommands`, and
`executeWord_changes` for the claim on `NOP`. -/
theorem illegalWordsRaiseTheirFault : Obligations.IllegalWordsRaiseTheirFault := by
  refine ⟨fun w s clear => ⟨fun hopc => executeWord_badOpcode clear (.inl hopc),
      fun hr => executeWord_badOpcode clear (.inr (.inl hr)),
      fun _ hN hc => executeWord_badOpcode clear (.inr (.inr ⟨hN, hc⟩)), fun hN hr hc => ?_⟩,
    by decide, rfl,
    ⟨legalCommands.map encode, legalCommands_nodup.map encode_injective, rfl, rfl, mem_legalWords⟩,
    fun s => executeWord_of_decode (decode_encode .nop) s, fun w => executeWord_changes,
    fun w s hf hc hs => executeWord_refused hf hc hs⟩
  obtain ⟨i, ho, hi⟩ := exists_formatN hN (countField w)
  have hdecode : decode w = .ok i := (decode_eq_ok_iff_fields w i).2 ⟨hr, ho.symm, hi.symm⟩
  refine executeWord_badCount clear ((not_badOpcode_iff w).2 ⟨i, hdecode⟩) ⟨hN, ?_⟩
  rcases hc with hc | hc
  · exact .inl (congrArg BitVec.toNat hc)
  · exact .inr hc

/-! ### The triple of a host operation (30_encoding.md R77, 20_memory.md R54) -/

/-- R54: a written value is read back as the same write: it fits its register, and no bit of it is dropped. -/
theorem regWriteOf_reg_value (w : RegWrite) : regWriteOf w.reg w.value = some w := by
  cases w with
  | unmapped k => rfl
  | cmd v | status v | opa v | opb v | res v | y v | cb v | lena v | lenc v =>
    simp only [RegWrite.reg, RegWrite.value, regWriteOf, v.isLt, if_true, BitVec.ofNat_toNat, BitVec.setWidth_eq]

/-- Settles O9: the number gives the register back (`ofNumber_number`), and register and value the write. -/
theorem triplesEncodeHostOperations : Obligations.TriplesEncodeHostOperations := by
  intro o
  cases o with
  | read r => simp [HostOp.triple, hostOpOfTriple, ofNumber_number]
  | write w => simp [HostOp.triple, hostOpOfTriple, ofNumber_number, regWriteOf_reg_value]

end Sys2Proof.Machine
end

section
/-! PROOFS. A value as a polynomial over GF(2) and as an element of the field (spec 00_scope.md R6; 40_gf128.md R90 to R93):
`mulx` is multiplication by `x` there, and `multiply` is the product. -/

namespace Sys2Proof.Machine

open Polynomial Sys2Proof.Statements

/-! ### The polynomial of a value (00_scope.md R6) -/

theorem toPoly_coeff (v : Block) (k : Nat) :
    (toPoly v).coeff k = if k < 128 ∧ v.getLsbD (127 - k) = true then 1 else 0 := by
  have term (i : Nat) : (if v.getLsbD (127 - i) = true then (X : (ZMod 2)[X]) ^ i else 0).coeff k =
      if k = i then (if v.getLsbD (127 - k) = true then 1 else 0) else 0 := by
    by_cases hk : k = i
    · subst hk; split <;> simp
    · split <;> simp [coeff_X_pow, hk]
  simp only [toPoly, finsetSum_coeff, term, Finset.sum_ite_eq, Finset.mem_range, ite_and]

theorem toPoly_degree_lt (v : Block) : (toPoly v).degree < 128 :=
  (degree_lt_iff_coeff_zero _ 128).2 fun k hk => by
    rw [toPoly_coeff, if_neg fun h => absurd h.1 (Nat.not_lt.2 hk)]

/-- R6: bit `j` is coefficient `127 - j`. -/
theorem toPoly_coeff_eq_one_iff (v : Block) {j : Nat} (hj : j < 128) :
    (toPoly v).coeff (127 - j) = 1 ↔ v.getLsbD j = true := by
  simp [toPoly_coeff, show 127 - j < 128 by omega, show 127 - (127 - j) = j by omega]

theorem toPoly_injective {a b : Block} (h : toPoly a = toPoly b) : a = b := by
  apply BitVec.eq_of_getLsbD_eq
  intro j hj
  rw [Bool.eq_iff_iff, ← toPoly_coeff_eq_one_iff a hj, h, toPoly_coeff_eq_one_iff b hj]

/-- R90: addition is XOR. -/
theorem toPoly_xor (a b : Block) : toPoly (a ^^^ b) = toPoly a + toPoly b := by
  simp only [toPoly, ← Finset.sum_add_distrib, BitVec.getLsbD_xor]
  refine Finset.sum_congr rfl fun i _ => ?_
  cases a.getLsbD (127 - i) <;> cases b.getLsbD (127 - i) <;> simp [CharTwo.add_self_eq_zero]

theorem toPoly_zero : toPoly 0 = 0 := by simp [toPoly]

/-- The powers of `x` below `x^128` are the values with one bit. -/
theorem toPoly_twoPow {k : Nat} (hk : k < 128) : toPoly (BitVec.twoPow 128 (127 - k)) = X ^ k := by
  rw [toPoly, Finset.sum_eq_single_of_mem k (Finset.mem_range.2 hk) fun i hi hik => ?_]
  · simp [BitVec.getLsbD_twoPow]; omega
  · have := Finset.mem_range.1 hi
    simp [BitVec.getLsbD_twoPow]; omega

theorem toPoly_one : toPoly one = 1 := toPoly_twoPow (k := 0) (by decide)

theorem toPoly_polyX : toPoly polyX = X := (toPoly_twoPow (k := 1) (by decide)).trans (pow_one X)

/-- R91: `R` is the value of `x^7 + x^2 + x + 1`. -/
theorem toPoly_reduction : toPoly reduction = X ^ 7 + X ^ 2 + X + 1 := by
  have hbits : reduction = BitVec.twoPow 128 (127 - 7) ^^^ BitVec.twoPow 128 (127 - 2) ^^^ polyX ^^^ one := by decide
  rw [hbits, toPoly_xor, toPoly_xor, toPoly_xor, toPoly_twoPow (by decide), toPoly_twoPow (by decide), toPoly_polyX,
    toPoly_one]

/-! ### Multiplication by `x` (40_gf128.md R92) -/

/-- The right shift moves the coefficient of `x^i` to `x^(i+1)`, and brings in no constant term. -/
theorem toPoly_ushiftRight_one (v : Block) :
    toPoly (v >>> 1) = ∑ i ∈ Finset.range 127, X * if v.getLsbD (127 - i) = true then X ^ i else 0 := by
  have hconst : (v >>> 1).getLsbD (127 - 0) = false := by simp
  rw [toPoly, Finset.sum_range_succ' _ 127, hconst, if_neg Bool.false_ne_true, add_zero]
  refine Finset.sum_congr rfl fun i hi => ?_
  have := Finset.mem_range.1 hi
  rw [BitVec.getLsbD_ushiftRight, show 1 + (127 - (i + 1)) = 127 - i by omega, mul_ite, mul_zero, pow_succ']

/-- What the shift loses is the coefficient of `x^127`. -/
theorem X_mul_toPoly (v : Block) :
    X * toPoly v = toPoly (v >>> 1) + if v.getLsbD 0 = true then X ^ 128 else 0 := by
  rw [toPoly_ushiftRight_one, toPoly, Finset.sum_range_succ _ 127, mul_add, Finset.mul_sum, Nat.sub_self, mul_ite,
    mul_zero, ← pow_succ']

theorem fieldPoly_eq : fieldPoly = X ^ 128 + X ^ 7 + X ^ 2 + X + 1 := by unfold fieldPoly; rfl

/-- R92: the bit shifted out is a term `x^128`, which `R` replaces. -/
theorem X_mul_toPoly_sub_mulx (v : Block) :
    X * toPoly v - toPoly (mulx v) = if v.getLsbD 0 = true then fieldPoly else 0 := by
  rw [X_mul_toPoly, mulx, toPoly_xor, add_sub_add_left_eq_sub, fieldPoly_eq]
  cases v.getLsbD 0 with
  | false => simp [toPoly]
  | true =>
    simp only [if_true, toPoly_reduction, CharTwo.sub_eq_add]
    ring

/-! ### The field polynomial (40_gf128.md R90) -/

/-- R90: the field polynomial under a name that is never unfolded by unification, which would compute with `x^128`. -/
@[irreducible] noncomputable def modulus : (ZMod 2)[X] := fieldPoly

theorem modulus_eq_fieldPoly : modulus = fieldPoly := by unfold modulus; rfl

theorem fieldPoly_natDegree : fieldPoly.natDegree = 128 := by
  unfold fieldPoly
  compute_degree!

theorem modulus_natDegree : modulus.natDegree = 128 := by rw [modulus_eq_fieldPoly, fieldPoly_natDegree]

theorem modulus_ne_zero : modulus ≠ 0 := by
  intro h
  have hdeg := modulus_natDegree
  rw [h, natDegree_zero] at hdeg
  omega

theorem modulus_degree : modulus.degree = 128 := by
  rw [degree_eq_natDegree modulus_ne_zero, modulus_natDegree, Nat.cast_ofNat]

theorem eq_zero_of_modulus_dvd {p : (ZMod 2)[X]} (hdvd : modulus ∣ p) (hdeg : p.degree < 128) : p = 0 :=
  eq_zero_of_dvd_of_degree_lt hdvd (modulus_degree ▸ hdeg)

theorem modulus_dvd_X_mul_sub_mulx (v : Block) : modulus ∣ X * toPoly v - toPoly (mulx v) := by
  rw [X_mul_toPoly_sub_mulx, ← modulus_eq_fieldPoly]
  cases v.getLsbD 0 with
  | false => exact dvd_zero _
  | true => exact dvd_rfl

/-- Settles O20: the formula is the definition with `R` written out; the coefficients are `X_mul_toPoly_sub_mulx`. -/
theorem mulxMultipliesByX : Obligations.MulxMultipliesByX := by
  have hR : reduction = 0xE1000000000000000000000000000000 := by decide
  refine ⟨fun v => ?_, modulus_eq_fieldPoly ▸ modulus_dvd_X_mul_sub_mulx, by decide, by decide, by decide, by decide⟩
  rw [mulx, hR]

/-! ### The field element of a value (40_gf128.md R90) -/

/-- R90: the element of GF(2)[x] modulo the field polynomial that a value stands for. -/
noncomputable def fieldElement (v : Block) : AdjoinRoot modulus := AdjoinRoot.mk modulus (toPoly v)

/-- R90: subtraction is XOR too. -/
theorem fieldElement_xor_eq_sub (a b : Block) : fieldElement (a ^^^ b) = fieldElement a - fieldElement b := by
  rw [fieldElement, toPoly_xor, ← CharTwo.sub_eq_add, map_sub, fieldElement, fieldElement]

/-- Two values' polynomials are congruent modulo the field polynomial only when the values are equal. -/
theorem fieldElement_injective : Function.Injective fieldElement := by
  intro a b h
  have hdvd : modulus ∣ toPoly (a ^^^ b) :=
    AdjoinRoot.mk_eq_zero.1 ((fieldElement_xor_eq_sub a b).trans (sub_eq_zero.2 h))
  have hzero : toPoly (a ^^^ b) = toPoly 0 :=
    (eq_zero_of_modulus_dvd hdvd (toPoly_degree_lt _)).trans toPoly_zero.symm
  exact BitVec.xor_eq_zero_iff.1 (toPoly_injective hzero)

theorem fieldElement_xor (a b : Block) : fieldElement (a ^^^ b) = fieldElement a + fieldElement b := by
  rw [fieldElement, toPoly_xor, map_add, fieldElement, fieldElement]

theorem fieldElement_zero : fieldElement 0 = 0 := by rw [fieldElement, toPoly_zero, map_zero]

theorem fieldElement_one : fieldElement one = 1 := by rw [fieldElement, toPoly_one, map_one]

theorem fieldElement_polyX : fieldElement polyX = AdjoinRoot.root modulus := by
  rw [fieldElement, toPoly_polyX, AdjoinRoot.mk_X]

theorem fieldElement_mulx (v : Block) :
    fieldElement (mulx v) = AdjoinRoot.root modulus * fieldElement v := by
  rw [fieldElement, fieldElement, ← AdjoinRoot.mk_X, ← map_mul]
  exact (AdjoinRoot.mk_eq_mk.2 (modulus_dvd_X_mul_sub_mulx v)).symm

/-- R6: the terms of `a` below `x^n`, summed in the field. -/
noncomputable def lowTerms (a : Block) (n : Nat) : AdjoinRoot modulus :=
  ∑ i ∈ Finset.range n, if a.getLsbD (127 - i) then AdjoinRoot.root modulus ^ i else 0

theorem lowTerms_all (a : Block) : lowTerms a 128 = fieldElement a := by
  simp only [lowTerms, fieldElement, toPoly, map_sum]
  refine Finset.sum_congr rfl fun i _ => ?_
  split <;> simp

/-! ### The product (40_gf128.md R93) -/

/-- R93: the loop's `V` is `b * x^i`. -/
theorem fieldElement_multiplySteps_snd (a b : Block) (i : Nat) :
    fieldElement (multiplySteps a b i).2 = AdjoinRoot.root modulus ^ i * fieldElement b := by
  induction i with
  | zero => rw [pow_zero, one_mul]; rfl
  | succ i ih => rw [multiplySteps_snd, fieldElement_mulx, ih, pow_succ', mul_assoc]

/-- R93: the loop's `Z` is the sum of the terms of `a` seen so far, times `b`. -/
theorem fieldElement_multiplySteps_fst (a b : Block) (i : Nat) :
    fieldElement (multiplySteps a b i).1 = lowTerms a i * fieldElement b := by
  induction i with
  | zero => rw [lowTerms, Finset.sum_range_zero, zero_mul]; exact fieldElement_zero
  | succ i ih =>
    rw [multiplySteps_fst, lowTerms, Finset.sum_range_succ, add_mul, ← lowTerms, ← ih]
    split
    · rw [fieldElement_xor, fieldElement_multiplySteps_snd]
    · rw [zero_mul, add_zero]

/-- R93: `multiply` is the product in the field. -/
theorem fieldElement_multiply (a b : Block) :
    fieldElement (multiply a b) = fieldElement a * fieldElement b := by
  rw [multiply, fieldElement_multiplySteps_fst, lowTerms_all]

/-- Settles O21: equality in the field is divisibility of the difference. -/
theorem multiplyIsTheFieldProduct : Obligations.MultiplyIsTheFieldProduct := by
  refine ⟨fun a b => ?_, toPoly_degree_lt, fieldPoly_natDegree, toPoly_xor, fun _ _ => toPoly_injective⟩
  rw [← modulus_eq_fieldPoly, ← AdjoinRoot.mk_eq_mk, map_mul]
  exact (fieldElement_multiply a b).symm

end Sys2Proof.Machine
end

section
/-! PROOFS. The laws of the product, the table and the table-driven product (spec 40_gf128.md R93 to R99), by computing with
field elements: a value is determined by its element (`fieldElement_injective`). -/

namespace Sys2Proof.Machine

open Sys2Proof.Statements

/-! ### The laws of the product (40_gf128.md R99) -/

theorem multiply_comm (a b : Block) : multiply a b = multiply b a :=
  fieldElement_injective (by rw [fieldElement_multiply, fieldElement_multiply, mul_comm])

theorem multiply_assoc (a b c : Block) : multiply a (multiply b c) = multiply (multiply a b) c :=
  fieldElement_injective (by simp only [fieldElement_multiply, mul_assoc])

theorem multiply_xor_left (a b c : Block) : multiply (a ^^^ b) c = multiply a c ^^^ multiply b c :=
  fieldElement_injective (by simp only [fieldElement_multiply, fieldElement_xor, add_mul])

@[simp] theorem multiply_zero_left (b : Block) : multiply 0 b = 0 :=
  fieldElement_injective (by rw [fieldElement_multiply, fieldElement_zero, zero_mul])

@[simp] theorem multiply_zero_right (a : Block) : multiply a 0 = 0 := by rw [multiply_comm, multiply_zero_left]

@[simp] theorem multiply_one_left (b : Block) : multiply one b = b :=
  fieldElement_injective (by rw [fieldElement_multiply, fieldElement_one, one_mul])

@[simp] theorem multiply_one_right (a : Block) : multiply a one = a := by rw [multiply_comm, multiply_one_left]

theorem multiply_polyX (a : Block) : multiply a polyX = mulx a :=
  fieldElement_injective (by rw [fieldElement_multiply, fieldElement_polyX, fieldElement_mulx, mul_comm])

/-- A factor `x` of the left operand is a factor of the product. -/
theorem multiply_mulx_left (a b : Block) : multiply (mulx a) b = mulx (multiply a b) :=
  fieldElement_injective (by simp only [fieldElement_multiply, fieldElement_mulx, mul_assoc])

/-- Settles O22: each law holds of the field elements. -/
theorem multiplicationLaws : Obligations.MultiplicationLaws :=
  ⟨multiply_comm, multiply_assoc, multiply_xor_left, multiply_zero_right, multiply_one_right, multiply_polyX,
    by decide +kernel⟩

/-! ### Four powers of `x` at once (40_gf128.md R96) -/

/-- R92: while no bit falls off, four `mulx` are a shift by four. -/
theorem mulx_four_of_low_zero (z : Block) (h : ∀ i < 4, z.getLsbD i = false) :
    mulx (mulx (mulx (mulx z))) = z >>> 4 := by
  rw [mulx_even z (h 0 (by decide)), mulx_even (z >>> 1) (by simpa using h 1 (by decide)), ← BitVec.shiftRight_add,
    mulx_even (z >>> (1 + 1)) (by simpa using h 2 (by decide)), ← BitVec.shiftRight_add,
    mulx_even (z >>> (1 + 1 + 1)) (by simpa using h 3 (by decide)), ← BitVec.shiftRight_add]

/-- A value is its high 124 bits and its low nibble. -/
theorem high_xor_lowNibble (z : Block) : ((z >>> 4) <<< 4) ^^^ (z.extractLsb' 0 4).setWidth 128 = z := by
  apply BitVec.eq_of_getLsbD_eq
  intro i hi
  simp only [BitVec.getLsbD_xor, BitVec.getLsbD_shiftLeft, BitVec.getLsbD_ushiftRight, BitVec.getLsbD_setWidth,
    BitVec.getLsbD_extractLsb', hi, decide_true, Bool.true_and, Nat.zero_add]
  by_cases h : i < 4
  · simp [h]
  · simp [h, show 4 + (i - 4) = i by omega]

/-- R96: `mulx` is linear, so the high part is shifted and the low nibble looked up. -/
theorem mulx4_eq (z : Block) : mulx4 z = mulx (mulx (mulx (mulx z))) := by
  have hlow : ∀ i < 4, ((z >>> 4) <<< 4).getLsbD i = false := fun i hi => by simp [hi]
  have hback : ((z >>> 4) <<< 4) >>> 4 = z >>> 4 := by
    apply BitVec.eq_of_getLsbD_eq
    intro i hi
    simp only [BitVec.getLsbD_ushiftRight, BitVec.getLsbD_shiftLeft]
    by_cases h : 4 + i < 128
    · simp [h]
    · simp [h, BitVec.getLsbD_of_ge z (4 + i) (by omega)]
  calc mulx4 z = (((z >>> 4) <<< 4) >>> 4) ^^^ red4 (z.extractLsb' 0 4) := by rw [hback]; rfl
    _ = mulx (mulx (mulx (mulx (((z >>> 4) <<< 4) ^^^ (z.extractLsb' 0 4).setWidth 128)))) := by
      simp only [mulx_xor, mulx_four_of_low_zero _ hlow]; rfl
    _ = mulx (mulx (mulx (mulx z))) := by rw [high_xor_lowNibble]

/-- Settles O25: the formulas are the definitions; `mulx4_eq` is the third claim. -/
theorem mulx4IsMulxFourTimes : Obligations.Mulx4IsMulxFourTimes :=
  ⟨fun _ => rfl, fun _ => rfl, mulx4_eq, by decide +kernel, by decide +kernel⟩

theorem mulx4_xor (a b : Block) : mulx4 (a ^^^ b) = mulx4 a ^^^ mulx4 b := by simp only [mulx4_eq, mulx_xor]

theorem multiply_mulx4_left (a b : Block) : multiply (mulx4 a) b = mulx4 (multiply a b) := by
  simp only [mulx4_eq, multiply_mulx_left]

/-! ### The table (40_gf128.md R95) -/

/-- R95: a nibble as the polynomial `n3 + n2*x + n1*x^2 + n0*x^3`. -/
def nibblePoly (n : Nibble) : Block := n.setWidth 128 <<< 124

theorem tableEntry_one : ∀ n : Nibble, tableEntry one n = nibblePoly n := by decide +kernel

theorem multiply_ite_zero (c : Bool) (a b : Block) :
    multiply (if c then a else 0) b = if c then multiply a b else 0 := by
  cases c with
  | false => exact multiply_zero_left b
  | true => rfl

/-- R95: an entry is the product of the nibble's polynomial with `h`, since the entries for `h = 1` are the nibbles'
polynomials and every entry is linear in `h`. -/
theorem tableEntry_eq_multiply (h : Block) (n : Nibble) : tableEntry h n = multiply (nibblePoly n) h := by
  rw [← tableEntry_one]
  simp only [tableEntry, multiply_xor_left, multiply_ite_zero, multiply_mulx_left, multiply_one_left]

theorem lookup_eq_multiply (h : Block) (n : Nibble) : lookup (buildTable h) n = multiply (nibblePoly n) h := by
  rw [lookup_buildTable, tableEntry_eq_multiply]

theorem nibblePoly_xor (i j : Nibble) : nibblePoly (i ^^^ j) = nibblePoly i ^^^ nibblePoly j := by
  rw [nibblePoly, BitVec.setWidth_xor, BitVec.shiftLeft_xor_distrib]; rfl

theorem lookup_buildTable_xor (h : Block) (i j : Nibble) :
    lookup (buildTable h) (i ^^^ j) = lookup (buildTable h) i ^^^ lookup (buildTable h) j := by
  simp only [lookup_eq_multiply, nibblePoly_xor, multiply_xor_left]

/-- Settles O24: the entries one by one are the definition, and as products `lookup_eq_multiply`. -/
theorem tableEntriesAreMultiples : Obligations.TableEntriesAreMultiples := by
  refine fun h => ⟨lookup_buildTable h, lookup_eq_multiply h, ?_, ?_, ?_, ?_, ?_, lookup_buildTable_xor h,
    by decide +kernel, by decide +kernel⟩
  -- the entries with at most one bit in their index: of the four terms at most one is left
  all_goals simp [lookup_buildTable, tableEntry]

/-! ### The table-driven product (40_gf128.md R97, R98) -/

/-- The low `k` nibbles of a value, moved up to the most significant end: what `tblmul` has consumed after `k` passes. -/
def consumed (x : Block) (k : Nat) : Block := x <<< (128 - 4 * k)

theorem consumed_low (x : Block) {k : Nat} (hk : k < 32) (i : Nat) (hi : i < 4) :
    (consumed x k).getLsbD i = false := by
  simp [consumed]; omega

/-- One pass moves what has been consumed down by a nibble, that is, multiplies it by `x^4`, and puts the next nibble on
top of it. -/
theorem consumed_succ (x : Block) {k : Nat} (hk : k < 32) :
    consumed x (k + 1) = mulx4 (consumed x k) ^^^ nibblePoly (x.extractLsb' (4 * k) 4) := by
  rw [mulx4_eq, mulx_four_of_low_zero _ (consumed_low x hk)]
  apply BitVec.eq_of_getLsbD_eq
  intro i hi
  simp only [consumed, nibblePoly, BitVec.getLsbD_xor, BitVec.getLsbD_shiftLeft, BitVec.getLsbD_ushiftRight,
    BitVec.getLsbD_setWidth, BitVec.getLsbD_extractLsb', hi, decide_true, Bool.true_and]
  by_cases htop : i < 124
  · by_cases hin : i < 128 - 4 * (k + 1)
    · simp [htop, hin]; omega
    · simp [htop, hin, show ¬ 4 + i < 128 - 4 * k by omega, show 4 + i < 128 by omega,
        show i - (128 - 4 * (k + 1)) = 4 + i - (128 - 4 * k) by omega]
  · simp [htop, show ¬ 4 + i < 128 by omega, show ¬ i < 128 - 4 * (k + 1) by omega, show i - 124 < 4 by omega,
      show i - 124 < 128 by omega, show i - (128 - 4 * (k + 1)) = 4 * k + (i - 124) by omega]

/-- R97: after `k` passes `Z` is the product of `h` with the nibbles consumed. -/
theorem tblmulSteps_eq_multiply (h x : Block) {k : Nat} (hk : k ≤ 32) :
    tblmulSteps (buildTable h) x k = multiply (consumed x k) h := by
  induction k with
  | zero =>
    have hnone : consumed x 0 = 0 := by simp [consumed]
    rw [hnone, multiply_zero_left]; rfl
  | succ k ih =>
    rw [tblmulSteps_succ, ih (by omega), lookup_eq_multiply, consumed_succ x (by omega), multiply_xor_left,
      multiply_mulx4_left]

/-- R98: the table law; all 32 nibbles of `x` are consumed. -/
theorem tblmul_buildTable (h x : Block) : tblmul (buildTable h) x = multiply x h := by
  have hall : consumed x 32 = x := by simp [consumed]
  rw [tblmul, tblmulSteps_eq_multiply h x le_rfl, hall]

/-- Settles O26. -/
theorem tableProductIsTheFieldProduct : Obligations.TableProductIsTheFieldProduct := tblmul_buildTable

end Sys2Proof.Machine
end

section
/-! PROOFS. The field polynomial is irreducible, so the product has no zero divisors (spec 40_gf128.md R90, R99 law 7).
Rabin's test, its two conditions computed with `multiply` itself: 128 squarings bring `x` back to itself, and what 64
squarings make of `x` differs from `x` by an invertible value. -/

namespace Sys2Proof.Machine

open Polynomial Sys2Proof.Statements

/-! ### Rabin's test -/

/-- Rabin's test of irreducibility over a finite field of `q` elements, for a degree that is a power of one prime. Any
irreducible factor `g` has a degree that divides `p^(k+1)`; were it smaller it would divide `p^k`, and `g` would divide
`X^(q^(p^k)) - X` too. -/
theorem irreducible_of_rabin {F : Type} [Field F] [Finite F] {f : F[X]} {q p k : Nat} (hq : Nat.card F = q)
    (hp : p.Prime) (hdeg : f.natDegree = p ^ (k + 1)) (hfix : f ∣ X ^ q ^ p ^ (k + 1) - X)
    (hcop : IsCoprime f (X ^ q ^ p ^ k - X)) : Irreducible f := by
  subst hq
  have hpos : f.natDegree ≠ 0 := by rw [hdeg]; exact pow_ne_zero _ hp.ne_zero
  have hf : f ≠ 0 := by rintro rfl; exact hpos natDegree_zero
  obtain ⟨g, hg, hgf⟩ := exists_irreducible_of_natDegree_ne_zero hpos
  have hdvd : g.natDegree ∣ p ^ (k + 1) := hg.natDegree_dvd_of_dvd_X_pow_card_pow_sub_X (hgf.trans hfix)
  have hnot : ¬ g.natDegree ∣ p ^ k := fun h =>
    hg.not_isUnit (hcop.isUnit_of_dvd' hgf (hg.natDegree_dvd_iff_dvd_X_pow_card_pow_sub_X.1 h))
  obtain ⟨j, hj, hgdeg⟩ := (Nat.dvd_prime_pow hp).1 hdvd
  have hjk : j = k + 1 := by
    by_contra hne
    exact hnot (hgdeg ▸ pow_dvd_pow p (by omega))
  have hassoc : Associated g f := associated_of_dvd_of_natDegree_le hgf hf (by rw [hdeg, hgdeg, hjk])
  exact hassoc.irreducible hg

/-! ### Squaring (40_gf128.md R93) -/

/-- The square of a value in the field. -/
def square (v : Block) : Block := multiply v v

theorem fieldElement_iterate_square (v : Block) (n : Nat) :
    fieldElement (square^[n] v) = fieldElement v ^ 2 ^ n := by
  induction n with
  | zero => simp
  | succ n ih => rw [Function.iterate_succ_apply', square, fieldElement_multiply, ih, ← sq, ← pow_mul, ← pow_succ]

/-- What 64 squarings make of `x`. -/
def halfOrbit : Block := 0x6f9945a9e519a7229d4c1ad657f8a686

theorem square_64_polyX : square^[64] polyX = halfOrbit := by decide +kernel

theorem square_64_halfOrbit : square^[64] halfOrbit = polyX := by decide +kernel

theorem square_128_polyX : square^[128] polyX = polyX := by
  rw [show 128 = 64 + 64 from rfl, Function.iterate_add_apply, square_64_polyX, square_64_halfOrbit]

/-- The inverse of the difference of `halfOrbit` and `x`. -/
def differenceInverse : Block := 0x180da934bf53158251c13dbb149f5279

theorem multiply_differenceInverse : multiply differenceInverse (square^[64] polyX ^^^ polyX) = one := by
  rw [square_64_polyX]; decide +kernel

/-! ### The field polynomial (40_gf128.md R90) -/

/-- What `n` squarings make of `x`, less `x`. -/
theorem mk_X_pow_sub_X (n : Nat) :
    AdjoinRoot.mk modulus (X ^ 2 ^ n - X) = fieldElement (square^[n] polyX ^^^ polyX) := by
  rw [fieldElement_xor_eq_sub, fieldElement_iterate_square, fieldElement_polyX, ← AdjoinRoot.mk_X, ← map_pow,
    ← map_sub]

theorem modulus_dvd_X_pow_sub_X {n : Nat} (h : square^[n] polyX = polyX) : modulus ∣ X ^ 2 ^ n - X := by
  rw [← AdjoinRoot.mk_eq_zero, mk_X_pow_sub_X, h, BitVec.xor_self]
  exact fieldElement_zero

theorem modulus_coprime_X_pow_sub_X {n : Nat} {d : Block} (h : multiply d (square^[n] polyX ^^^ polyX) = one) :
    IsCoprime modulus (X ^ 2 ^ n - X) := by
  have hinv : AdjoinRoot.mk modulus (toPoly d * (X ^ 2 ^ n - X)) = AdjoinRoot.mk modulus 1 := by
    rw [map_mul, mk_X_pow_sub_X, ← fieldElement, ← fieldElement_multiply, h, fieldElement_one, map_one]
  obtain ⟨c, hc⟩ := AdjoinRoot.mk_eq_mk.1 hinv
  exact ⟨-c, toPoly d, by linear_combination hc⟩

/-- R90: the field polynomial is irreducible. -/
theorem modulus_irreducible : Irreducible modulus :=
  irreducible_of_rabin (k := 6) (Nat.card_zmod 2) Nat.prime_two modulus_natDegree
    (modulus_dvd_X_pow_sub_X square_128_polyX) (modulus_coprime_X_pow_sub_X multiply_differenceInverse)

/-! ### The law (40_gf128.md R99) -/

/-- Settles O23: modulo an irreducible polynomial there are no zero divisors, and only 0 stands for the zero element. -/
theorem noZeroDivisors : Obligations.NoZeroDivisors := by
  intro a b hab
  have hdomain : IsDomain (AdjoinRoot modulus) := AdjoinRoot.isDomain_of_prime modulus_irreducible.prime
  have hprod : fieldElement a * fieldElement b = 0 := by rw [← fieldElement_multiply, hab, fieldElement_zero]
  exact (mul_eq_zero.1 hprod).imp (fun h => fieldElement_injective (h.trans fieldElement_zero.symm))
    fun h => fieldElement_injective (h.trans fieldElement_zero.symm)

end Sys2Proof.Machine
end

section
/-! PROOFS. The commands of spec 40_gf128.md: `GFMUL`, `HLOAD`, `HKEY`, `HMUL` (R100 to R103). -/

namespace Sys2Proof.Machine

open Sys2Proof.Statements

/-! ### `GFMUL` (40_gf128.md R100) -/

/-- R100: the command has no check of its own. -/
theorem exec_gfmul_clear {s : State} (clear : s.unit.err = .clear) :
    exec .gfmul s = .next { s with unit := { s.unit with res := multiply s.unit.opa s.unit.opb } } :=
  next_congr_unit (unlessFaulted_clear _ clear)

theorem exec_gfmul_faulted {s : State} (hf : s.unit.err ≠ .clear) : exec .gfmul s = .next s :=
  exec_refused hf nofun nofun

/-- R100: `RES` is not an operand, so a second `GFMUL` writes the same product. -/
theorem exec_gfmul_again {s t : State} (h : exec .gfmul s = .next t) : exec .gfmul t = .next t := by
  by_cases hf : s.unit.err = .clear
  · cases (exec_gfmul_clear hf).symm.trans h
    exact exec_gfmul_clear hf
  · cases (exec_gfmul_faulted hf).symm.trans h
    exact h

/-- Settles O28: the corner cases are the laws of R99. -/
theorem gfmulWritesTheProduct : Obligations.GfmulWritesTheProduct :=
  ⟨rfl, fun _ => exec_gfmul_clear, fun _ => exec_gfmul_faulted, fun _ _ => exec_gfmul_again, multiply_zero_left,
    multiply_zero_right, multiply_one_right, by decide +kernel⟩

/-! ### Loading a subkey: `HLOAD` and `HKEY` (40_gf128.md R101, R102) -/

/-- R101, R102: while a message is open no subkey is loaded. -/
theorem subkeyLoadable_eq_false {u : GhctrUnit} (h : u.phase = .aad ∨ u.phase = .ct) : subkeyLoadable u = false := by
  rcases h with h | h <;> simp [subkeyLoadable, h]

/-- R101, R102: what both commands do in phase `IDLE` or `DONE`, whatever the subkey. -/
theorem load_accepted (h : Block) {u : GhctrUnit} (clear : u.err = .clear) (hp : u.phase = .idle ∨ u.phase = .done) :
    unlessFaulted u (requireElse (subkeyLoadable u) .seq u (loadSubkey h u)) = loadSubkey h u :=
  (unlessFaulted_requireElse_pass .seq _ ((subkeyLoadable_iff u).2 hp)).trans (unlessFaulted_clear _ clear)

/-- R101, R102: what both commands do while a message is open. -/
theorem load_midMessage (h : Block) {u : GhctrUnit} (clear : u.err = .clear) (hp : u.phase = .aad ∨ u.phase = .ct) :
    unlessFaulted u (requireElse (subkeyLoadable u) .seq u (loadSubkey h u)) = { u with err := .seq } :=
  unlessFaulted_requireElse_fail .seq _ clear (subkeyLoadable_eq_false hp)

theorem exec_hkey_loads {s : State} (clear : s.unit.err = .clear) (hp : s.unit.phase = .idle ∨ s.unit.phase = .done) :
    exec .hkey s = .next { s with unit := loadSubkey (s.cipherAt 0) s.unit } :=
  next_congr_unit (load_accepted _ clear hp)

theorem exec_hkey_midMessage {s : State} (clear : s.unit.err = .clear) (hp : s.unit.phase = .aad ∨ s.unit.phase = .ct) :
    exec .hkey s = .next { s with unit := { s.unit with err := .seq } } :=
  next_congr_unit (load_midMessage _ clear hp)

theorem exec_hkey_faulted {s : State} (hf : s.unit.err ≠ .clear) : exec .hkey s = .next s :=
  exec_refused hf nofun nofun

/-- R29: a subkey can be loaded, or a message is open. -/
theorem phase_cases (p : Phase) : (p = .idle ∨ p = .done) ∨ p = .aad ∨ p = .ct := by
  cases p <;> decide

/-- R102: `E` is fixed and the load leaves `PHASE` and `ERR` as they are, so a second `HKEY` loads the same; after a
fault it is refused. -/
theorem exec_hkey_again {s t : State} (h : exec .hkey s = .next t) : exec .hkey t = .next t := by
  by_cases hf : s.unit.err = .clear
  · rcases phase_cases s.unit.phase with hp | hp
    · cases (exec_hkey_loads hf hp).symm.trans h
      exact exec_hkey_loads (s := { s with unit := loadSubkey (s.cipherAt 0) s.unit }) hf hp
    · cases (exec_hkey_midMessage hf hp).symm.trans h
      exact exec_hkey_faulted nofun
  · cases (exec_hkey_faulted hf).symm.trans h
    exact h

/-- R101: under the zero subkey every hash is 0, since its last step multiplies by the subkey. -/
theorem ghash_zero_subkey (a c : List Byte) : ghash 0 a c = 0 := multiply_zero_right _

/-- Settles O29: `loadSubkey` is the three writes; the table of 0 is `lookup_eq_multiply`. -/
theorem hloadLoadsOpa : Obligations.HloadLoadsOpa :=
  ⟨rfl, fun _ clear hp => next_congr_unit (load_accepted _ clear hp),
    fun _ clear hp => next_congr_unit (load_midMessage _ clear hp), fun _ hf => exec_refused hf nofun nofun,
    fun n => (lookup_eq_multiply 0 n).trans (multiply_zero_right _), ghash_zero_subkey, by decide +kernel,
    by decide +kernel, by decide +kernel⟩

/-- Settles O30. -/
theorem hkeyLoadsTheCipherOfZero : Obligations.HkeyLoadsTheCipherOfZero :=
  ⟨rfl, fun _ => exec_hkey_loads, fun _ => exec_hkey_midMessage, fun _ => exec_hkey_faulted, fun _ _ => exec_hkey_again⟩

/-! ### `HMUL` (40_gf128.md R103) -/

theorem exec_hmul_keyed {s : State} (clear : s.unit.err = .clear) (keyed : s.unit.hvalid = true) :
    exec .hmul s = .next { s with unit := { s.unit with res := tblmul s.unit.tbl s.unit.opa } } :=
  next_congr_unit ((unlessFaulted_requireElse_pass .noh _ keyed).trans (unlessFaulted_clear _ clear))

/-- R103: the product by `H`, by the table law. -/
theorem exec_hmul_tableMatches {s : State} (clear : s.unit.err = .clear) (keyed : s.unit.hvalid = true)
    (table : TableMatches s.unit) :
    exec .hmul s = .next { s with unit := { s.unit with res := multiply s.unit.opa s.unit.h } } := by
  rw [exec_hmul_keyed clear keyed, table, tblmul_buildTable]

/-- Settles O31: the corner cases are the laws of R99, through the table law. -/
theorem hmulMultipliesByTheSubkey : Obligations.HmulMultipliesByTheSubkey :=
  ⟨rfl, fun _ => exec_hmul_keyed, fun _ => exec_hmul_tableMatches,
    fun _ clear unkeyed => exec_unkeyed clear rfl (by decide) unkeyed, fun _ hf => exec_refused hf nofun nofun,
    fun h => ⟨(tblmul_buildTable h 0).trans (multiply_zero_left h),
      (tblmul_buildTable h one).trans (multiply_one_left h)⟩,
    by decide +kernel⟩

end Sys2Proof.Machine
end

section
/-! PROOFS. The commands of spec 41_ghash.md: `GHINIT`, `GHAAD`, `GHCT`, `GHLEN` (R125 to R128). -/

namespace Sys2Proof.Machine

open Sys2Proof.Statements

/-! ### The first bytes of a value (00_scope.md R7) -/

/-- R7: the mask has no more than sixteen bytes to cover. -/
theorem mask_min (n : Nat) : mask (min n 16) = mask n := by
  unfold mask
  rw [show 16 - min n 16 = 16 - n by omega]

/-- R7: the bytes of `keep(V, nb)`: those of `V` below `nb`, zero from `nb` on. -/
theorem byte_keep (v : Block) (nb : Count) {i : Nat} (hi : i < 16) :
    byte (keep v nb) i = if i < nb.toNat then byte v i else 0 := by
  apply BitVec.eq_of_getLsbD_eq
  intro j hj
  have hbit : (mask nb.toNat).getLsbD (8 * (15 - i) + j) = decide (i < nb.toNat) := by
    rw [← mask_min, mask_bit _ _ (by omega) (by omega), decide_eq_decide]
    omega
  unfold byte keep
  rw [BitVec.getLsbD_setWidth, BitVec.getLsbD_ushiftRight, BitVec.getLsbD_and, hbit]
  by_cases hn : i < nb.toNat <;> simp [hn, hj]

/-- R56, R121: a chunk, padded with zeros, is the kept part of its register. -/
theorem blockOfBytes_take (v : Block) (nb : Count) : blockOfBytes ((blockBytes v).take nb.toNat) = keep v nb := by
  apply block_ext
  intro i hi
  rw [byte_blockOfBytes _ _ hi, byte_keep v nb hi]
  by_cases hn : i < nb.toNat
  · rw [if_pos hn, ← blockBytes_getD v i hi, List.getD_eq_getElem?_getD, List.getD_eq_getElem?_getD,
      List.getElem?_take_of_lt hn]
  · rw [if_neg hn, List.getD_eq_default _ _ (by rw [List.length_take]; omega)]

/-! ### `GHINIT` (41_ghash.md R125) -/

theorem exec_ghinit_clear {s : State} (clear : s.unit.err = .clear) :
    exec .ghinit s =
      .next { s with unit := { s.unit with y := 0, lena := 0, lenc := 0, phase := .aad, tagok := false } } :=
  next_congr_unit (unlessFaulted_clear _ clear)

/-- R125: where `STATUS` shows a subkey and nothing else, it then shows phase `AAD` beside it. -/
theorem statusWord_of_begun {u : GhctrUnit} (h : statusWord u = 0x00000001) :
    statusWord { u with y := 0, lena := 0, lenc := 0, phase := .aad, tagok := false } = 0x00000003 := by
  have before : (statusWord u).toNat = 1 := congrArg BitVec.toNat h
  rw [statusWord_toNat] at before
  apply BitVec.eq_of_toNat_eq
  rw [statusWord_toNat]
  show 2 ^ 8 * u.err.code.toNat + (2 ^ 3 * 0 + (2 ^ 1 * 1 + (flagBit u.hvalid).toNat)) = 3
  omega

/-- Settles O32. -/
theorem ghinitBeginsAMessage : Obligations.GhinitBeginsAMessage :=
  ⟨rfl, fun _ => exec_ghinit_clear, fun _ hf => exec_refused hf nofun nofun, fun _ => statusWord_of_begun⟩

/-! ### The checks that `GHAAD` and `GHCT` share (30_encoding.md R75 steps 3, 5, 6; 41_ghash.md R126, R127) -/

/-- R126, R127: the result `k` of a chunk of `nb` bytes behind the checks of both commands, in their order; `allowed`
and `fits` are the phase check and the length check of the one or the other. -/
def chunkChecked (u : GhctrUnit) (nb : Count) (allowed fits : Bool) (k : GhctrUnit) : GhctrUnit :=
  unlessFaulted u <| requireElse (countLegal nb) .nb u <| requireElse u.hvalid .noh u <| requireElse allowed .seq u <|
    requireElse fits .len u k

theorem exec_ghaad_eq (nb : Count) (s : State) :
    exec (.ghaad nb) s = .next { s with
      unit := (chunkChecked s.unit nb (aadAllowed s.unit) (lengthFits s.unit.lena nb)
        { absorb (keep s.unit.opa nb) s.unit with lena := s.unit.lena + chunkBits nb }) } := rfl

theorem exec_ghct_eq (nb : Count) (s : State) :
    exec (.ghct nb) s = .next { s with
      unit := (chunkChecked s.unit nb (ctAllowed s.unit) (lengthFits s.unit.lenc nb)
        { absorb (keep s.unit.opa nb) s.unit with lenc := s.unit.lenc + chunkBits nb, phase := .ct }) } := rfl

/-- The phase and length checks are reached with a legal count and a subkey. -/
theorem chunkChecked_keyed {u k : GhctrUnit} {nb : Count} {allowed fits : Bool} (clear : u.err = .clear)
    (legal : countLegal nb = true) (keyed : u.hvalid = true) :
    chunkChecked u nb allowed fits k = requireElse allowed .seq u (requireElse fits .len u k) := by
  rw [chunkChecked, unlessFaulted_clear _ clear, requireElse_pass _ _ _ legal, requireElse_pass _ _ _ keyed]

theorem chunkChecked_pass {u k : GhctrUnit} {nb : Count} {allowed fits : Bool} (clear : u.err = .clear)
    (legal : countLegal nb = true) (keyed : u.hvalid = true) (ha : allowed = true) (hl : fits = true) :
    chunkChecked u nb allowed fits k = k := by
  rw [chunkChecked_keyed clear legal keyed, requireElse_pass _ _ _ ha, requireElse_pass _ _ _ hl]

theorem chunkChecked_seq {u k : GhctrUnit} {nb : Count} {allowed fits : Bool} (clear : u.err = .clear)
    (legal : countLegal nb = true) (keyed : u.hvalid = true) (ha : allowed = false) :
    chunkChecked u nb allowed fits k = { u with err := .seq } := by
  rw [chunkChecked_keyed clear legal keyed, requireElse_fail _ _ _ ha, raise_of_clear _ clear]

theorem chunkChecked_len {u k : GhctrUnit} {nb : Count} {allowed fits : Bool} (clear : u.err = .clear)
    (legal : countLegal nb = true) (keyed : u.hvalid = true) (ha : allowed = true) (hl : fits = false) :
    chunkChecked u nb allowed fits k = { u with err := .len } := by
  rw [chunkChecked_keyed clear legal keyed, requireElse_pass _ _ _ ha, requireElse_fail _ _ _ hl,
    raise_of_clear _ clear]

/-- A check that leaves no fault behind has passed. -/
theorem requireElse_of_clear {c : Bool} {e : ErrCode} {u k : GhctrUnit} (he : e ≠ .clear) (clear : u.err = .clear)
    (h : (requireElse c e u k).err = .clear) : c = true ∧ requireElse c e u k = k := by
  cases c with
  | false =>
    rw [requireElse_fail e u k rfl, raise_of_clear e clear] at h
    exact absurd h he
  | true => exact ⟨rfl, requireElse_pass e u k rfl⟩

/-- A chunk command that finds no fault and leaves none has passed every check. -/
theorem chunkChecked_of_clear {u k : GhctrUnit} {nb : Count} {allowed fits : Bool} (clear : u.err = .clear)
    (h : (chunkChecked u nb allowed fits k).err = .clear) :
    countLegal nb = true ∧ u.hvalid = true ∧ allowed = true ∧ fits = true := by
  rw [chunkChecked, unlessFaulted_clear _ clear] at h
  obtain ⟨legal, hk⟩ := requireElse_of_clear (e := .nb) nofun clear h
  rw [hk] at h
  obtain ⟨keyed, hk⟩ := requireElse_of_clear (e := .noh) nofun clear h
  rw [hk] at h
  obtain ⟨ha, hk⟩ := requireElse_of_clear (e := .seq) nofun clear h
  rw [hk] at h
  exact ⟨legal, keyed, ha, (requireElse_of_clear (e := .len) nofun clear h).1⟩

theorem countLegal_of_range {nb : Count} (h1 : 1 ≤ nb.toNat) (h16 : nb.toNat ≤ 16) : countLegal nb = true :=
  (countLegal_iff nb).2 ⟨h1, h16⟩

theorem countLegal_eq_false {nb : Count} (h : nb.toNat = 0 ∨ 17 ≤ nb.toNat) : countLegal nb = false := by
  rw [← Bool.not_eq_true, countLegal_iff]
  omega

theorem lengthFits_eq_false {bits : BitCount} {nb : Count} (h : 2 ^ 64 - 1 < bits.toNat + 8 * nb.toNat) :
    lengthFits bits nb = false := by
  rw [← Bool.not_eq_true, lengthFits_iff]
  exact Nat.not_le.2 h

/-- R126, R127: the counter of the spec, on numbers. -/
theorem counter_add_eq (bits : BitCount) (nb : Count) :
    bits + chunkBits nb = BitVec.ofNat 64 (bits.toNat + 8 * nb.toNat) := by
  rw [chunkBits, BitVec.ofNat_add, BitVec.ofNat_toNat, BitVec.setWidth_eq]

/-! ### `GHAAD` (41_ghash.md R126) -/

theorem exec_ghaad_absorbs {s : State} {nb : Count} (clear : s.unit.err = .clear) (h1 : 1 ≤ nb.toNat)
    (h16 : nb.toNat ≤ 16) (keyed : s.unit.hvalid = true) (hp : s.unit.phase = .aad)
    (whole : s.unit.lena.toNat % 128 = 0) (fits : s.unit.lena.toNat + 8 * nb.toNat ≤ 2 ^ 64 - 1) :
    exec (.ghaad nb) s = .next { s with unit := { s.unit with
      y := tblmul s.unit.tbl (s.unit.y ^^^ keep s.unit.opa nb),
      lena := BitVec.ofNat 64 (s.unit.lena.toNat + 8 * nb.toNat) } } := by
  rw [exec_ghaad_eq, chunkChecked_pass clear (countLegal_of_range h1 h16) keyed
    ((aadAllowed_iff _).2 ⟨hp, whole⟩) ((lengthFits_iff _ _).2 fits), counter_add_eq]
  rfl

theorem exec_ghaad_seq {s : State} {nb : Count} (clear : s.unit.err = .clear) (h1 : 1 ≤ nb.toNat)
    (h16 : nb.toNat ≤ 16) (keyed : s.unit.hvalid = true)
    (hp : ¬ (s.unit.phase = .aad ∧ s.unit.lena.toNat % 128 = 0)) :
    exec (.ghaad nb) s = .next { s with unit := { s.unit with err := .seq } } :=
  next_congr_unit (chunkChecked_seq clear (countLegal_of_range h1 h16) keyed
    (Bool.not_eq_true _ ▸ mt (aadAllowed_iff _).1 hp))

theorem exec_ghaad_len {s : State} {nb : Count} (clear : s.unit.err = .clear) (h1 : 1 ≤ nb.toNat)
    (h16 : nb.toNat ≤ 16) (keyed : s.unit.hvalid = true) (hp : s.unit.phase = .aad)
    (whole : s.unit.lena.toNat % 128 = 0) (long : 2 ^ 64 - 1 < s.unit.lena.toNat + 8 * nb.toNat) :
    exec (.ghaad nb) s = .next { s with unit := { s.unit with err := .len } } :=
  next_congr_unit (chunkChecked_len clear (countLegal_of_range h1 h16) keyed
    ((aadAllowed_iff _).2 ⟨hp, whole⟩) (lengthFits_eq_false long))

theorem ghaad_mem_subkeyOpcodes {nb : Count} : (Instr.ghaad nb).opcode ∈ subkeyOpcodes :=
  show 0x11#8 ∈ subkeyOpcodes by decide

/-- R126: a counter in whole bytes does not reach above `2^64 - 8`. -/
theorem counter_bound_iff (bits : BitCount) (nb : Count) (whole : bits.toNat % 8 = 0) :
    bits.toNat + 8 * nb.toNat ≤ 2 ^ 64 - 1 ↔ bits.toNat + 8 * nb.toNat ≤ 2 ^ 64 - 8 := by
  omega

/-- R98, R123: under the table invariant the GHASH step of a block is the product by `H`. -/
theorem tblmul_tableMatches {u : GhctrUnit} (table : TableMatches u) (x : Block) :
    tblmul u.tbl x = multiply x u.h := by
  rw [table, tblmul_buildTable]

/-- Settles O33: the next state for each outcome of the checks, then the bytes of `keep` (`byte_keep`). -/
theorem ghaadAbsorbsAnAadChunk : Obligations.GhaadAbsorbsAnAadChunk :=
  ⟨fun _ => rfl, fun _ _ => exec_ghaad_absorbs,
    fun _ _ clear illegal => exec_illFormed clear (countLegal_eq_false illegal),
    fun _ _ clear h1 h16 unkeyed => exec_unkeyed clear (countLegal_of_range h1 h16) ghaad_mem_subkeyOpcodes unkeyed,
    fun _ _ => exec_ghaad_seq, fun _ _ => exec_ghaad_len, fun _ _ hf => exec_refused hf nofun nofun,
    counter_bound_iff, fun _ _ table => tblmul_tableMatches table _, fun v nb _ hi => byte_keep v nb hi,
    by decide +kernel, by decide +kernel⟩

/-! ### `GHCT` (41_ghash.md R127) -/

theorem exec_ghct_absorbs {s : State} {nb : Count} (clear : s.unit.err = .clear) (h1 : 1 ≤ nb.toNat)
    (h16 : nb.toNat ≤ 16) (keyed : s.unit.hvalid = true) (hp : s.unit.phase = .aad ∨ s.unit.phase = .ct)
    (whole : s.unit.lenc.toNat % 128 = 0) (fits : s.unit.lenc.toNat + 8 * nb.toNat ≤ 2 ^ 64 - 1) :
    exec (.ghct nb) s = .next { s with unit := { s.unit with
      y := tblmul s.unit.tbl (s.unit.y ^^^ keep s.unit.opa nb),
      lenc := BitVec.ofNat 64 (s.unit.lenc.toNat + 8 * nb.toNat), phase := .ct } } := by
  rw [exec_ghct_eq, chunkChecked_pass clear (countLegal_of_range h1 h16) keyed
    ((ctAllowed_iff _).2 ⟨hp, whole⟩) ((lengthFits_iff _ _).2 fits), counter_add_eq]
  rfl

theorem exec_ghct_seq {s : State} {nb : Count} (clear : s.unit.err = .clear) (h1 : 1 ≤ nb.toNat)
    (h16 : nb.toNat ≤ 16) (keyed : s.unit.hvalid = true)
    (hp : ¬ ((s.unit.phase = .aad ∨ s.unit.phase = .ct) ∧ s.unit.lenc.toNat % 128 = 0)) :
    exec (.ghct nb) s = .next { s with unit := { s.unit with err := .seq } } :=
  next_congr_unit (chunkChecked_seq clear (countLegal_of_range h1 h16) keyed
    (Bool.not_eq_true _ ▸ mt (ctAllowed_iff _).1 hp))

theorem exec_ghct_len {s : State} {nb : Count} (clear : s.unit.err = .clear) (h1 : 1 ≤ nb.toNat)
    (h16 : nb.toNat ≤ 16) (keyed : s.unit.hvalid = true) (hp : s.unit.phase = .aad ∨ s.unit.phase = .ct)
    (whole : s.unit.lenc.toNat % 128 = 0) (long : 2 ^ 64 - 1 < s.unit.lenc.toNat + 8 * nb.toNat) :
    exec (.ghct nb) s = .next { s with unit := { s.unit with err := .len } } :=
  next_congr_unit (chunkChecked_len clear (countLegal_of_range h1 h16) keyed
    ((ctAllowed_iff _).2 ⟨hp, whole⟩) (lengthFits_eq_false long))

theorem ghct_mem_subkeyOpcodes {nb : Count} : (Instr.ghct nb).opcode ∈ subkeyOpcodes :=
  show 0x12#8 ∈ subkeyOpcodes by decide

/-- R127: in phase `CT` the AAD is closed. -/
theorem exec_ghaad_of_ct {s : State} {nb : Count} (hp : s.unit.phase = .ct) (clear : s.unit.err = .clear)
    (keyed : s.unit.hvalid = true) (h1 : 1 ≤ nb.toNat) (h16 : nb.toNat ≤ 16) :
    exec (.ghaad nb) s = .next { s with unit := { s.unit with err := .seq } } :=
  exec_ghaad_seq clear h1 h16 keyed fun h => absurd (hp.symm.trans h.1) nofun

/-- Settles O34: as O33, by `chunkChecked`; a later `GHAAD` finds phase `CT`. -/
theorem ghctAbsorbsACiphertextChunk : Obligations.GhctAbsorbsACiphertextChunk :=
  ⟨fun _ => rfl, fun _ _ => exec_ghct_absorbs,
    fun _ _ clear illegal => exec_illFormed clear (countLegal_eq_false illegal),
    fun _ _ clear h1 h16 unkeyed => exec_unkeyed clear (countLegal_of_range h1 h16) ghct_mem_subkeyOpcodes unkeyed,
    fun _ _ => exec_ghct_seq, fun _ _ => exec_ghct_len, fun _ _ hf => exec_refused hf nofun nofun,
    fun _ _ _ _ _ => exec_ghaad_of_ct, fun _ _ table => tblmul_tableMatches table _, by decide +kernel⟩

/-! ### `GHLEN` (41_ghash.md R128) -/

/-- R122: the two counters side by side. -/
theorem lenBlock_eq_append (la lc : BitCount) : lenBlock la lc = la ++ lc := by
  apply BitVec.eq_of_getLsbD_eq
  intro i hi
  simp only [lenBlock, BitVec.getLsbD_or, BitVec.getLsbD_shiftLeft, BitVec.getLsbD_setWidth, BitVec.getLsbD_append, hi,
    decide_true, Bool.true_and]
  by_cases h : i < 64
  · simp [h]
  · simp [h, show i - 64 < 128 by omega, BitVec.getLsbD_of_ge lc i (by omega)]

theorem exec_ghlen_finishes {s : State} (clear : s.unit.err = .clear) (keyed : s.unit.hvalid = true)
    (hp : s.unit.phase = .aad ∨ s.unit.phase = .ct) :
    exec .ghlen s = .next { s with unit := { absorb (lenBlock s.unit.lena s.unit.lenc) s.unit with phase := .done } } :=
  next_congr_unit ((unlessFaulted_requireElse_pass .noh _ keyed).trans
    ((unlessFaulted_requireElse_pass .seq _ ((messageOpen_iff _).2 hp)).trans (unlessFaulted_clear _ clear)))

theorem messageOpen_eq_false {u : GhctrUnit} (h : u.phase = .idle ∨ u.phase = .done) : messageOpen u = false := by
  rcases h with h | h <;> simp [messageOpen, h]

theorem exec_ghlen_seq {s : State} (clear : s.unit.err = .clear) (keyed : s.unit.hvalid = true)
    (hp : s.unit.phase = .idle ∨ s.unit.phase = .done) :
    exec .ghlen s = .next { s with unit := { s.unit with err := .seq } } :=
  next_congr_unit ((unlessFaulted_requireElse_pass .noh _ keyed).trans
    (unlessFaulted_requireElse_fail .seq _ clear (messageOpen_eq_false hp)))

/-- R128: of the commands that write `PHASE` (R42), and reset, only `GHLEN` writes `DONE`. -/
theorem eq_ghlen_of_done {i : Instr} {s t : State} (hx : exec i s = .next t) (before : s.unit.phase ≠ .done)
    (after : t.unit.phase = .done) : i = .ghlen := by
  by_cases hi : i = .sreset
  · subst hi
    cases hx
    cases after
  obtain ⟨-, -, -, -, -, -, -, hphase, -⟩ := commandsWriteOnlyTheirComponents i s t hx hi
  rcases hphase (fun h => before (h.symm.trans after)) with ⟨-, h⟩ | ⟨-, h⟩ | ⟨h, -⟩
  · cases after.symm.trans h
  · cases after.symm.trans h
  · exact h

/-- Settles O35: the next state for each outcome of the checks, then who enters `DONE` (`eq_ghlen_of_done`). -/
theorem ghlenAbsorbsTheLengthBlock : Obligations.GhlenAbsorbsTheLengthBlock := by
  refine ⟨rfl, fun s clear keyed hp => ?_, fun _ clear unkeyed => exec_unkeyed clear rfl (by decide) unkeyed,
    fun _ => exec_ghlen_seq, fun _ hf => exec_refused hf nofun nofun, fun _ _ _ => eq_ghlen_of_done,
    by decide +kernel⟩
  rw [exec_ghlen_finishes clear keyed hp, lenBlock_eq_append]
  rfl

end Sys2Proof.Machine
end

section
/-! PROOFS. The accumulator of a message: what each chunk makes of it, and the invariant of every step (spec 41_ghash.md
R120 to R130). -/

namespace Sys2Proof.Machine

/-! ### The empty message (41_ghash.md R130) -/

theorem lenBlock_zero : lenBlock 0 0 = 0 := by decide

/-- R130: the only block is the length block 0, which the product maps to 0. -/
theorem ghash_nil (h : Block) : ghash h [] [] = 0 :=
  calc ghash h [] [] = ghashStep h 0 (lenBlock 0 0) := ghash_of_lt h (by decide) (by decide)
    _ = multiply (0 ^^^ 0) h := by rw [lenBlock_zero, ghashStep]
    _ = 0 := multiply_zero_left h

theorem performOp_commandOp (i : Instr) (s : State) : performOp (commandOp i) s = exec i s :=
  executeWord_of_decode (decode_encode i) s

/-- R125, R128: the length block right after `GHINIT`. -/
theorem issue_ghinit_ghlen {s : State} (clear : s.unit.err = .clear) (keyed : s.unit.hvalid = true)
    (table : TableMatches s.unit) :
    issue [commandOp .ghinit, commandOp .ghlen] s =
      .next { s with unit := { s.unit with y := 0, lena := 0, lenc := 0, phase := .done, tagok := false } } := by
  have hzero : tblmul s.unit.tbl (0 ^^^ lenBlock 0 0) = 0 := by
    rw [lenBlock_zero, tblmul_tableMatches table]
    exact multiply_zero_left _
  have hinit := (performOp_commandOp .ghinit s).trans (exec_ghinit_clear clear)
  have hlen := (performOp_commandOp .ghlen _).trans (exec_ghlen_finishes (s := { s with
    unit := { s.unit with y := 0, lena := 0, lenc := 0, phase := .aad, tagok := false } }) clear keyed (.inl rfl))
  rw [issue_cons hinit, issue_cons hlen, issue, absorb, hzero]

/-- Settles O48: the hash of nothing (`ghash_nil`), and the same by the two commands (`issue_ghinit_ghlen`). -/
theorem emptyMessageHashesToZero : Obligations.EmptyMessageHashesToZero := by
  refine ⟨ghash_nil, fun s t ready h => ?_⟩
  cases (issue_ghinit_ghlen ready.sound ready.keyed ready.table).symm.trans h
  exact ⟨rfl, rfl⟩

/-! ### A string and its next chunk (41_ghash.md R121, R124) -/

theorem padBlocks_nil : padBlocks [] = [] := rfl

/-- The bytes a chunk command hands over (20_memory.md R56). -/
def chunkBytes (v : Block) (nb : Count) : List Byte := (blockBytes v).take nb.toNat

theorem chunkBytes_length {v : Block} {nb : Count} (legal : countLegal nb = true) :
    (chunkBytes v nb).length = nb.toNat := by
  have h16 := ((countLegal_iff nb).1 legal).2
  rw [chunkBytes, List.length_take, blockBytes_length]
  omega

theorem bitLength_append_chunkBytes (d : List Byte) (v : Block) {nb : Count} (legal : countLegal nb = true) :
    bitLength (d ++ chunkBytes v nb) = bitLength d + chunkBits nb := by
  rw [bitLength, bitLength, chunkBits, List.length_append, chunkBytes_length legal, Nat.mul_add, BitVec.ofNat_add]

theorem chunkBytes_ne_nil {v : Block} {nb : Count} (legal : countLegal nb = true) : chunkBytes v nb ≠ [] := by
  rw [← List.length_pos_iff, chunkBytes_length legal]
  exact ((countLegal_iff nb).1 legal).1

/-- R126, R127: a chunk that passes the length check keeps the string in the range of R122. -/
theorem append_chunkBytes_fits {d : List Byte} (v : Block) {nb : Count} (legal : countLegal nb = true)
    (hd : 8 * d.length < 2 ^ 64) (fits : lengthFits (bitLength d) nb = true) :
    8 * (d ++ chunkBytes v nb).length < 2 ^ 64 := by
  have hle := (lengthFits_iff _ nb).1 fits
  rw [bitLength_toNat d hd] at hle
  rw [List.length_append, chunkBytes_length legal]
  omega

/-- R124: an open string consists of whole blocks, so its next chunk is one more block: the kept bytes of `OPA`. -/
theorem padBlocks_append_chunkBytes {d : List Byte} (v : Block) {nb : Count} (legal : countLegal nb = true)
    (hd : 8 * d.length < 2 ^ 64) (whole : (bitLength d).toNat % 128 = 0) :
    padBlocks (d ++ chunkBytes v nb) = padBlocks d ++ [keep v nb] := by
  obtain ⟨h1, h16⟩ := (countLegal_iff nb).1 legal
  have hlen : (chunkBytes v nb).length = nb.toNat := chunkBytes_length legal
  rw [bitLength_toNat d hd] at whole
  rw [padBlocks, chunks_append d _ (by omega) (by omega) (by omega), List.map_append, List.map_singleton, chunkBytes,
    blockOfBytes_take, padBlocks]

theorem ghashBlocks_append_singleton (h y : Block) (bs : List Block) (b : Block) :
    ghashBlocks h y (bs ++ [b]) = ghashStep h (ghashBlocks h y bs) b := by
  rw [ghashBlocks, List.foldl_append, List.foldl_cons, List.foldl_nil, ghashBlocks]

/-- R123: the table-driven step is the step of the hash. -/
theorem absorb_y_eq_ghashStep {u : GhctrUnit} (table : TableMatches u) (b : Block) :
    (absorb b u).y = ghashStep u.h u.y b :=
  tblmul_tableMatches table _

/-! ### The invariant, phase by phase (41_ghash.md R129) -/

theorem accumulated_aad {m : Message} {u : GhctrUnit} (h : AccumulatorOfMessage m u) (hp : u.phase = .aad) :
    m.key = u.h ∧ m.ciphertext = [] ∧ u.y = ghashBlocks m.key 0 (padBlocks m.aad) := by
  have hacc := h.accumulated
  rw [hp] at hacc
  exact hacc

/-- While a message is open the accumulator is the fold of all its blocks; in phase `AAD` the ciphertext has none. -/
theorem accumulated_open {m : Message} {u : GhctrUnit} (h : AccumulatorOfMessage m u)
    (hp : u.phase = .aad ∨ u.phase = .ct) :
    m.key = u.h ∧
      u.y = ghashBlocks m.key (ghashBlocks m.key 0 (padBlocks m.aad)) (padBlocks m.ciphertext) := by
  have hacc := h.accumulated
  rcases hp with hp | hp
  · obtain ⟨hkey, hempty, hy⟩ := accumulated_aad h hp
    rw [hempty]
    exact ⟨hkey, hy⟩
  · rw [hp] at hacc
    obtain ⟨hkey, -, hy⟩ := hacc
    exact ⟨hkey, hy⟩

/-- What `AccumulatorOfMessage` says of the counters, in every phase; the three lemmas after it add what it says of the
accumulator in one phase. -/
structure CountsMessage (m : Message) (u : GhctrUnit) : Prop where
  aad_fits : 8 * m.aad.length < 2 ^ 64
  ciphertext_fits : 8 * m.ciphertext.length < 2 ^ 64
  aad_counted : u.lena = bitLength m.aad
  ciphertext_counted : u.lenc = bitLength m.ciphertext

theorem accumulator_of_aad {m : Message} {u : GhctrUnit} (counts : CountsMessage m u) (hp : u.phase = .aad)
    (hkey : m.key = u.h) (hempty : m.ciphertext = []) (hy : u.y = ghashBlocks m.key 0 (padBlocks m.aad)) :
    AccumulatorOfMessage m u := by
  refine ⟨counts.aad_fits, counts.ciphertext_fits, counts.aad_counted, counts.ciphertext_counted, ?_⟩
  rw [hp]
  exact ⟨hkey, hempty, hy⟩

theorem accumulator_of_ct {m : Message} {u : GhctrUnit} (counts : CountsMessage m u) (hp : u.phase = .ct)
    (hkey : m.key = u.h) (hsome : m.ciphertext ≠ [])
    (hy : u.y = ghashBlocks m.key (ghashBlocks m.key 0 (padBlocks m.aad)) (padBlocks m.ciphertext)) :
    AccumulatorOfMessage m u := by
  refine ⟨counts.aad_fits, counts.ciphertext_fits, counts.aad_counted, counts.ciphertext_counted, ?_⟩
  rw [hp]
  exact ⟨hkey, hsome, hy⟩

theorem accumulator_of_done {m : Message} {u : GhctrUnit} (counts : CountsMessage m u) (hp : u.phase = .done)
    (hy : u.y = ghash m.key m.aad m.ciphertext) : AccumulatorOfMessage m u := by
  refine ⟨counts.aad_fits, counts.ciphertext_fits, counts.aad_counted, counts.ciphertext_counted, ?_⟩
  rw [hp]
  exact hy

/-! ### The invariant, command by command (41_ghash.md R125 to R128) -/

theorem accumulator_ghinit (u : GhctrUnit) :
    AccumulatorOfMessage (Message.empty u.h)
      { u with y := 0, lena := 0, lenc := 0, phase := .aad, tagok := false } :=
  accumulator_of_aad ⟨Nat.two_pow_pos 64, Nat.two_pow_pos 64, rfl, rfl⟩ rfl rfl rfl
    (congrArg (ghashBlocks u.h 0) padBlocks_nil.symm)

/-- R126: the AAD grows by the chunk, its blocks by one. -/
theorem accumulator_ghaad {m : Message} {u : GhctrUnit} {nb : Count} (h : AccumulatorOfMessage m u)
    (table : TableMatches u) (legal : countLegal nb = true) (allowed : aadAllowed u = true)
    (fits : lengthFits u.lena nb = true) :
    AccumulatorOfMessage { m with aad := m.aad ++ chunkBytes u.opa nb }
      { absorb (keep u.opa nb) u with lena := u.lena + chunkBits nb } := by
  obtain ⟨hp, whole⟩ := (aadAllowed_iff u).1 allowed
  obtain ⟨hkey, hempty, hy⟩ := accumulated_aad h hp
  rw [h.aad_counted] at fits whole
  refine accumulator_of_aad ⟨append_chunkBytes_fits _ legal h.aad_fits fits, h.ciphertext_fits, ?_,
    h.ciphertext_counted⟩ hp hkey hempty ((absorb_y_eq_ghashStep table _).trans ?_)
  · rw [bitLength_append_chunkBytes _ _ legal, h.aad_counted]
  · rw [padBlocks_append_chunkBytes _ legal h.aad_fits whole, ghashBlocks_append_singleton, hy, hkey]

/-- R127: the ciphertext grows by the chunk, its blocks by one, and is no longer empty. -/
theorem accumulator_ghct {m : Message} {u : GhctrUnit} {nb : Count} (h : AccumulatorOfMessage m u)
    (table : TableMatches u) (legal : countLegal nb = true) (allowed : ctAllowed u = true)
    (fits : lengthFits u.lenc nb = true) :
    AccumulatorOfMessage { m with ciphertext := m.ciphertext ++ chunkBytes u.opa nb }
      { absorb (keep u.opa nb) u with lenc := u.lenc + chunkBits nb, phase := .ct } := by
  obtain ⟨hp, whole⟩ := (ctAllowed_iff u).1 allowed
  obtain ⟨hkey, hy⟩ := accumulated_open h hp
  rw [h.ciphertext_counted] at fits whole
  refine accumulator_of_ct ⟨h.aad_fits, append_chunkBytes_fits _ legal h.ciphertext_fits fits, h.aad_counted, ?_⟩
    rfl hkey ?_ ((absorb_y_eq_ghashStep table _).trans ?_)
  · rw [bitLength_append_chunkBytes _ _ legal, h.ciphertext_counted]
  · exact List.append_ne_nil_of_right_ne_nil _ (chunkBytes_ne_nil legal)
  · rw [padBlocks_append_chunkBytes _ legal h.ciphertext_fits whole, ghashBlocks_append_singleton, hy, hkey]

/-- R128: the length block is that of the two strings, so the accumulator is their hash. -/
theorem accumulator_ghlen {m : Message} {u : GhctrUnit} (h : AccumulatorOfMessage m u) (table : TableMatches u)
    (hp : u.phase = .aad ∨ u.phase = .ct) :
    AccumulatorOfMessage m { absorb (lenBlock u.lena u.lenc) u with phase := .done } := by
  obtain ⟨hkey, hy⟩ := accumulated_open h hp
  refine accumulator_of_done ⟨h.aad_fits, h.ciphertext_fits, h.aad_counted, h.ciphertext_counted⟩ rfl ?_
  rw [ghash_of_lt _ h.aad_fits h.ciphertext_fits, ← h.aad_counted, ← h.ciphertext_counted, ← hy, hkey]
  exact absorb_y_eq_ghashStep table _

/-- R101, R102: a subkey is loaded only where no message is open, and then the invariant does not read `H`. -/
theorem accumulator_loadSubkey {m : Message} {u : GhctrUnit} (h : AccumulatorOfMessage m u)
    (loadable : subkeyLoadable u = true) (k : Block) : AccumulatorOfMessage m (loadSubkey k u) :=
  accumulatorOfMessage_congr h rfl rfl rfl rfl (.inr ((subkeyLoadable_iff u).1 loadable))

theorem accumulator_reset : AccumulatorOfMessage (Message.empty 0) GhctrUnit.reset :=
  resetMeetsTheAccumulatorOfAMessage

/-- What a completing command other than a reset does to the accumulator, it does to the message
(`Message.absorb`). -/
theorem completes_accumulates {e : Block → Block} {m : Message} {u v : GhctrUnit} {i : Instr}
    (h : AccumulatorOfMessage m u) (table : TableMatches u) (hc : Completes e u i v) (hi : i ≠ .sreset) :
    AccumulatorOfMessage (m.absorb i u) v := by
  cases hc with
  | sreset => exact absurd rfl hi
  | ghinit => exact accumulator_ghinit u
  | ghaad _ legal _ allowed fits => exact accumulator_ghaad h table legal allowed fits
  | ghct _ legal _ allowed fits => exact accumulator_ghct h table legal allowed fits
  | ghlen _ _ isOpen => exact accumulator_ghlen h table ((messageOpen_iff u).1 isOpen)
  | hload _ loadable | hkey _ loadable => exact accumulator_loadSubkey h loadable _
  -- the rest write none of the components the invariant reads
  | nop | gfmul | hmul | inc32 | ctrxor | taggen | tagMatch | tagMismatch | clrerr =>
    exact accumulatorOfMessage_congr h rfl rfl rfl rfl (.inl rfl)

/-! ### A command that faults, or is refused, adds nothing to the message -/

/-- The message after a command of a run from `u` to `v`: it grows when the unit is not faulted before nor after. -/
def Message.afterCommand (m : Message) (i : Instr) (u v : GhctrUnit) : Message :=
  if u.err = .clear ∧ v.err = .clear then m.absorb i u else m

/-- A command that finds no fault and leaves none completes, or is none of those that change the message. -/
theorem exec_clear_cases {i : Instr} {s t : State} (hx : exec i s = .next t) (before : s.unit.err = .clear)
    (after : t.unit.err = .clear) :
    Completes s.cipherAt s.unit i t.unit ∨ ∀ m : Message, m.absorb i s.unit = m := by
  cases i with
  | ghinit =>
    cases (exec_ghinit_clear before).symm.trans hx
    exact .inl (.ghinit before)
  | ghaad nb =>
    cases hx
    obtain ⟨legal, keyed, allowed, fits⟩ := chunkChecked_of_clear before after
    left
    show Completes _ _ _ (chunkChecked _ _ _ _ _)
    rw [chunkChecked_pass before legal keyed allowed fits]
    exact .ghaad before legal keyed allowed fits
  | ghct nb =>
    cases hx
    obtain ⟨legal, keyed, allowed, fits⟩ := chunkChecked_of_clear before after
    left
    show Completes _ _ _ (chunkChecked _ _ _ _ _)
    rw [chunkChecked_pass before legal keyed allowed fits]
    exact .ghct before legal keyed allowed fits
  | _ => exact .inr fun _ => rfl

/-- A command that completes from or into a faulted state does not change the message. -/
theorem completes_faulted_absorb {e : Block → Block} {u v : GhctrUnit} {i : Instr} (hc : Completes e u i v)
    (hf : ¬ (u.err = .clear ∧ v.err = .clear)) (m : Message) : m.absorb i u = m := by
  cases hc with
  | ghinit clear | ghaad clear | ghct clear => exact absurd ⟨clear, clear⟩ hf
  | _ => rfl

/-- A command that leaves the message as it is keeps its accumulator, whatever its outcome. -/
theorem exec_keeps_accumulator {m : Message} {i : Instr} {s t : State} (h : AccumulatorOfMessage m s.unit)
    (table : TableMatches s.unit) (hx : exec i s = .next t) (hi : i ≠ .sreset)
    (hm : Completes s.cipherAt s.unit i t.unit → m.absorb i s.unit = m) : AccumulatorOfMessage m t.unit := by
  rcases exec_cases hx with ⟨-, hv⟩ | ⟨c, -, hv⟩ | hc
  · rw [hv]; exact h
  · rw [hv]; exact accumulatorOfMessage_raise c h
  · exact hm hc ▸ completes_accumulates h table hc hi

theorem exec_accumulates {m : Message} {i : Instr} {s t : State} (h : AccumulatorOfMessage m s.unit)
    (table : TableMatches s.unit) (hx : exec i s = .next t) (hi : i ≠ .sreset) :
    AccumulatorOfMessage (m.afterCommand i s.unit t.unit) t.unit := by
  unfold Message.afterCommand
  split
  case isTrue hclear =>
    rcases exec_clear_cases hx hclear.1 hclear.2 with hc | hm
    · exact completes_accumulates h table hc hi
    · rw [hm m]
      exact exec_keeps_accumulator h table hx hi fun _ => hm m
  case isFalse hf => exact exec_keeps_accumulator h table hx hi fun hc => completes_faulted_absorb hc hf m

/-! ### The invariant of every step (41_ghash.md R129) -/

theorem accumulator_readReg {m : Message} {u : GhctrUnit} (h : AccumulatorOfMessage m u) (r : Reg) :
    AccumulatorOfMessage m (readReg r u).1 := by
  rcases readReg_unit r u with hr | hr <;> rw [hr]
  · exact h
  · exact accumulatorOfMessage_raise .access h

theorem accumulator_writeReg {m : Message} {u : GhctrUnit} (h : AccumulatorOfMessage m u) (w : RegWrite) :
    AccumulatorOfMessage m (writeReg w u) := by
  rcases writeReg_cases w u with ⟨v, -, hw⟩ | ⟨v, -, hw⟩ | ⟨v, -, hw⟩ | ⟨v, -, hw⟩ | hw <;> rw [hw]
  case inr.inr.inr.inr => exact accumulatorOfMessage_raise .access h
  all_goals exact accumulatorOfMessage_congr h rfl rfl rfl rfl (.inl rfl)

theorem after_command {m : Message} {s t : State} {w : Word} {i : Instr} {rest : List Input}
    (hin : s.inputs = .op (.write (.cmd w)) :: rest) (hd : decode w = .ok i) :
    m.after s t = if i = .sreset then Message.empty 0 else m.afterCommand i s.unit t.unit := by
  simp only [Message.after, hin, hd, Message.afterCommand]

theorem after_undecoded {m : Message} {s t : State} {w : Word} {e : DecodeError} {rest : List Input}
    (hin : s.inputs = .op (.write (.cmd w)) :: rest) (hd : decode w = .error e) : m.after s t = m := by
  simp only [Message.after, hin, hd]

/-- A step that writes a command word. -/
theorem step_command_accumulates {m : Message} {s t : State} {w : Word} {rest : List Input}
    (h : AccumulatorOfMessage m s.unit) (table : TableMatches s.unit)
    (hin : s.inputs = .op (.write (.cmd w)) :: rest) (hstep : step s = .next t) :
    AccumulatorOfMessage (m.after s t) t.unit := by
  cases hd : decode w with
  | ok i =>
    have hx := (stepRunsTheDecodedCommand s w i rest hin hd).symm.trans hstep
    rw [after_command hin hd]
    split
    case isTrue hi => subst hi; cases hx; exact accumulator_reset
    case isFalse hi => exact exec_accumulates (s := { s with inputs := rest }) h table hx hi
  | error e =>
    rw [after_undecoded hin hd]
    have hw : executeWord w { s with inputs := rest } = .next t := (step_op hin).symm.trans hstep
    rcases executeWord_cases w { s with inputs := rest } with ⟨i, hi, -⟩ | ⟨-, -, -, hx⟩ | ⟨_, -, -, hx⟩
    · cases hd.symm.trans hi
    · cases hx.symm.trans hw; exact h
    · cases hx.symm.trans hw; exact accumulatorOfMessage_raise .opcode h

/-- Settles O46: the next input is none, a reset, a read, a command word (`step_command_accumulates`) or another write;
all but the reset and the command leave the message and what the invariant reads. -/
theorem stepKeepsTheAccumulatorOfAMessage : Obligations.StepKeepsTheAccumulatorOfAMessage := by
  intro m s t table h hstep
  match hin : s.inputs with
  | [] =>
    cases (step_idle hin).symm.trans hstep
    simpa only [Message.after, hin] using h
  | .hardwareReset :: rest =>
    cases (step_hardwareReset hin).symm.trans hstep
    simpa only [Message.after, hin] using accumulator_reset
  | .op (.read r) :: rest =>
    cases (step_op hin).symm.trans hstep
    show AccumulatorOfMessage _ (readReg r s.unit).1
    simpa only [Message.after, hin] using accumulator_readReg h r
  | .op (.write w) :: rest =>
    cases w with
    | cmd w => exact step_command_accumulates h table hin hstep
    | _ =>
      cases (step_op hin).symm.trans hstep
      simpa only [Message.after, hin] using accumulator_writeReg h _

end Sys2Proof.Machine
end

section
/-! PROOFS. Counter mode (spec 42_ctr.md): the arithmetic of `inc32` (R141, R144), the involution of `encrypt_ctr`
(R143), and the commands `INC32` and `CTRXOR` (R145, R146). -/

namespace Sys2Proof.Machine

/-! ### `inc32`, on the two parts of a counter block (42_ctr.md R140, R141) -/

/-- R140: a counter block is its high 96 bits and its counter. -/
theorem high_append_counter (v : Block) : v.extractLsb' 32 96 ++ v.extractLsb' 0 32 = v := by
  rw [BitVec.extractLsb'_append_extractLsb'_eq_extractLsb' (by rfl)]
  exact BitVec.extractLsb'_eq_self

theorem inc32_append (p : BitVec 96) (c : BitVec 32) : inc32 (p ++ c) = p ++ (c + 1) := by
  rw [inc32, BitVec.extractLsb'_append_eq_left, BitVec.extractLsb'_append_eq_right]

/-- R5: the first 12 bytes of a block are in its high 96 bits. -/
theorem byte_append_high (p : BitVec 96) (c c' : BitVec 32) {i : Nat} (hi : i < 12) :
    byte (p ++ c) i = byte (p ++ c') i := by
  apply BitVec.eq_of_getLsbD_eq
  intro j hj
  have hhigh : ¬ 8 * (15 - i) + j < 32 := by omega
  have hbit : ∀ c : BitVec 32, (p ++ c).getLsbD (8 * (15 - i) + j) = p.getLsbD (8 * (15 - i) + j - 32) :=
    fun c => BitVec.getLsbD_append.trans (if_neg hhigh)
  simp only [byte, BitVec.getLsbD_setWidth, BitVec.getLsbD_ushiftRight, hbit]

theorem byte_inc32 (v : Block) {i : Nat} (hi : i < 12) : byte (inc32 v) i = byte v i :=
  calc byte (inc32 v) i
    _ = byte (v.extractLsb' 32 96 ++ v.extractLsb' 0 32) i := byte_append_high _ _ _ hi
    _ = byte v i := by rw [high_append_counter]

/-- Settles O50: `c + 1` is the sum modulo `2^32`. -/
theorem inc32WrapsTheLowWord : Obligations.Inc32WrapsTheLowWord := by
  refine ⟨fun p c => ?_, fun v i => byte_inc32 v, by decide, by decide, by decide, by decide⟩
  rw [inc32_append]
  exact congrArg (p ++ ·) (BitVec.eq_of_toNat_eq (by simp [BitVec.toNat_add]))

/-! ### The period of the counter (42_ctr.md R144) -/

theorem inc32_iterate_append (p : BitVec 96) (c : BitVec 32) (n : Nat) :
    inc32^[n] (p ++ c) = p ++ (c + BitVec.ofNat 32 n) := by
  induction n with
  | zero => simp
  | succ n ih => rw [Function.iterate_succ_apply', ih, inc32_append, BitVec.ofNat_add, BitVec.add_assoc]; rfl

/-- R144: `n` increments come back to the start when `n` is a multiple of `2^32`. -/
theorem inc32_iterate_append_eq_self_iff (p : BitVec 96) (c : BitVec 32) (n : Nat) :
    inc32^[n] (p ++ c) = p ++ c ↔ n % 2 ^ 32 = 0 := by
  rw [inc32_iterate_append, BitVec.append_right_inj, BitVec.add_right_eq_self, ← BitVec.toNat_inj,
    BitVec.toNat_ofNat, BitVec.toNat_zero]

theorem inc32_iterate_eq_self_iff (v : Block) (n : Nat) : inc32^[n] v = v ↔ n % 2 ^ 32 = 0 :=
  high_append_counter v ▸ inc32_iterate_append_eq_self_iff _ _ n

/-- Settles O52: the least positive multiple of `2^32` is `2^32` itself. -/
theorem counterWrapsAfterTwoToThe32 : Obligations.CounterWrapsAfterTwoToThe32 := by
  refine ⟨fun v => (inc32_iterate_eq_self_iff v _).2 (Nat.mod_self _), fun v n h0 hn h => ?_⟩
  have hmod := (inc32_iterate_eq_self_iff v n).1 h
  rw [Nat.mod_eq_of_lt hn] at hmod
  exact h0.ne' hmod

/-! ### `encrypt_ctr`, chunk by chunk (42_ctr.md R142, R143) -/

/-- R142: the first bytes of a keystream block, XORed with as many bytes of data. -/
def xorBytes (d k : List Byte) : List Byte := List.zipWith (· ^^^ ·) d k

theorem xorBytes_length {d k : List Byte} (h : d.length ≤ k.length) : (xorBytes d k).length = d.length := by
  rw [xorBytes, List.length_zipWith, Nat.min_eq_left h]

/-- R143: XOR is its own inverse. -/
theorem xorBytes_xorBytes {d k : List Byte} (h : d.length ≤ k.length) : xorBytes (xorBytes d k) k = d := by
  apply List.ext_getElem
  · rw [xorBytes_length (by rwa [xorBytes_length h]), xorBytes_length h]
  · intro i _ _
    simp [xorBytes]

/-- R142: a piece is no longer than its keystream block. -/
theorem length_le_blockBytes {d : List Byte} (v : Block) (h : d.length ≤ 16) : d.length ≤ (blockBytes v).length :=
  h.trans_eq (blockBytes_length v).symm

theorem encryptCtr_nil (e : Block → Block) (start : Block) : encryptCtr e start [] = [] := rfl

theorem encryptCtr_short (e : Block → Block) (start : Block) {d : List Byte} (h0 : 0 < d.length)
    (h16 : d.length ≤ 16) :
    encryptCtr e start d = xorBytes d (blockBytes (e start)) := by
  rw [encryptCtr, chunks_short d h0 h16, ctrPieces, ctrPieces, List.append_nil, xorBytes]

theorem encryptCtr_append (e : Block → Block) (start : Block) {p : List Byte} (d : List Byte) (h : p.length = 16) :
    encryptCtr e start (p ++ d) = xorBytes p (blockBytes (e start)) ++ encryptCtr e (inc32 start) d := by
  rw [encryptCtr, chunks_cons p d h, ctrPieces, encryptCtr, xorBytes]

theorem encryptCtr_length (e : Block → Block) (d : List Byte) (start : Block) :
    (encryptCtr e start d).length = d.length := by
  induction d using chunk_induction generalizing start with
  | nil => rw [encryptCtr_nil]
  | short p h0 h16 =>
    rw [encryptCtr_short e start h0 h16.le, xorBytes_length (length_le_blockBytes _ h16.le)]
  | whole p d h ih =>
    rw [encryptCtr_append e start d h, List.length_append, List.length_append, ih,
      xorBytes_length (length_le_blockBytes _ h.le)]

/-- R143: the pieces of the result are as long as those of the data, so both passes use the same keystream. -/
theorem encryptCtr_encryptCtr (e : Block → Block) (d : List Byte) (start : Block) :
    encryptCtr e start (encryptCtr e start d) = d := by
  induction d using chunk_induction generalizing start with
  | nil => rw [encryptCtr_nil, encryptCtr_nil]
  | short p h0 h16 =>
    have hk := length_le_blockBytes (e start) h16.le
    have hx := xorBytes_length hk
    rw [encryptCtr_short e start h0 h16.le, encryptCtr_short e start (hx ▸ h0) (hx ▸ h16.le), xorBytes_xorBytes hk]
  | whole p d h ih =>
    have hk := length_le_blockBytes (e start) h.le
    have hx := (xorBytes_length hk).trans h
    rw [encryptCtr_append e start d h, encryptCtr_append e start _ hx, xorBytes_xorBytes hk, ih]

/-- Settles O51, by induction on the pieces of the data. -/
theorem counterModeIsItsOwnInverse : Obligations.CounterModeIsItsOwnInverse :=
  fun e start d => ⟨encryptCtr_encryptCtr e d start, encryptCtr_length e d start⟩

/-! ### `INC32` (42_ctr.md R145) -/

theorem exec_inc32_clear {s : State} (clear : s.unit.err = .clear) :
    exec .inc32 s = .next { s with unit := { s.unit with cb := inc32 s.unit.cb } } :=
  next_congr_unit (unlessFaulted_clear _ clear)

/-- R145: the increment in place is the same as the write of the increment. -/
theorem issue_cb_inc32 (j0 : Block) {s : State} (clear : s.unit.err = .clear) :
    issue [.write (.cb j0), commandOp .inc32] s = performOp (.write (.cb (inc32 j0))) s := by
  have hwrite : performOp (.write (.cb j0)) s = .next { s with unit := { s.unit with cb := j0 } } := rfl
  have hinc := (performOp_commandOp .inc32 _).trans
    (exec_inc32_clear (s := { s with unit := { s.unit with cb := j0 } }) clear)
  rw [issue_cons hwrite, issue_cons hinc]
  rfl

/-- Settles O36: the wrap is `inc32_append` at the last counter. -/
theorem inc32IncrementsTheCounterBlock : Obligations.Inc32IncrementsTheCounterBlock :=
  ⟨rfl, fun _ => exec_inc32_clear, fun _ hf => exec_refused hf nofun nofun, fun p => inc32_append p 0xffffffff#32,
    fun j0 _ => issue_cb_inc32 j0, by decide⟩

/-! ### `CTRXOR` (42_ctr.md R146) -/

theorem byte_keep_xor (v k : Block) (nb : Count) {i : Nat} (hi : i < 16) :
    byte (keep (v ^^^ k) nb) i = if i < nb.toNat then byte v i ^^^ byte k i else 0 := by
  rw [byte_keep _ _ hi, byte_xor]

/-- R7: all sixteen bytes are the value. -/
theorem keep_sixteen (v : Block) : keep v 16 = v :=
  block_ext fun _ hi => (byte_keep v 16 hi).trans (if_pos hi)

/-- Settles O37: `OPA` zero leaves the keystream, of which a count of 16 keeps every byte (`keep_sixteen`). -/
theorem ctrxorEncryptsAChunk : Obligations.CtrxorEncryptsAChunk :=
  ⟨fun _ => rfl, fun _ _ clear h1 h16 => exec_ctrxor_legal clear (countLegal_of_range h1 h16),
    fun _ _ clear illegal => exec_illFormed clear (countLegal_eq_false illegal),
    fun _ _ hf => exec_refused hf nofun nofun, fun v k nb _ => byte_keep_xor v k nb,
    fun k => (keep_sixteen _).trans BitVec.zero_xor, by decide +kernel, by decide +kernel⟩

end Sys2Proof.Machine
end

section
/-! PROOFS. The tag and its comparison (spec 43_tag.md R156 to R158): the bytes of a difference, and the commands
`TAGGEN` and `TAGCMP`. -/

namespace Sys2Proof.Machine

open Sys2Proof.Statements

/-! ### The comparison (43_tag.md R156) -/

/-- R156: an OR of bytes is zero exactly when each of them is. -/
theorem differenceBytes_eq_zero_iff (d : Block) (n : Nat) : differenceBytes d n = 0 ↔ ∀ i < n, byte d i = 0 := by
  induction n with
  | zero => simp [differenceBytes]
  | succ n ih => rw [Nat.forall_lt_succ_right, ← ih]; exact BitVec.or_eq_zero_iff

theorem byte_zero (i : Nat) : byte 0 i = 0 := by simp [byte]

/-- A block is zero when its sixteen bytes are. -/
theorem block_eq_zero_iff (d : Block) : d = 0 ↔ ∀ i < 16, byte d i = 0 :=
  ⟨fun h i _ => h ▸ byte_zero i, fun h => block_ext fun i hi => (h i hi).trans (byte_zero i).symm⟩

/-- R156: as a function of values the comparison is equality. -/
theorem tagEqual_iff (t t' : Block) : tagEqual t t' = true ↔ t = t' :=
  calc tagEqual t t' = true
    _ ↔ differenceBytes (t ^^^ t') 16 = 0 := decide_eq_true_iff
    _ ↔ t ^^^ t' = 0 := (differenceBytes_eq_zero_iff _ 16).trans (block_eq_zero_iff _).symm
    _ ↔ t = t' := BitVec.xor_eq_zero_iff

/-- Settles O54: a nonzero difference has a nonzero byte (`block_eq_zero_iff`). -/
theorem tagEqualIsEquality : Obligations.TagEqualIsEquality := by
  refine ⟨fun d => ⟨rfl, fun _ => rfl⟩, fun t t' => decide_eq_true_iff, tagEqual_iff, fun t t' hne => ?_⟩
  have hd : ¬ ∀ i < 16, byte (t ^^^ t') i = 0 := fun h => hne (BitVec.xor_eq_zero_iff.1 ((block_eq_zero_iff _).2 h))
  push Not at hd
  exact hd

/-! ### The checks that `TAGGEN` and `TAGCMP` share (30_encoding.md R75 steps 3 and 6; 43_tag.md R157, R158) -/

/-- R157, R158: the result `k` of either command behind the checks of both, in their order. -/
def tagChecked (u k : GhctrUnit) : GhctrUnit :=
  unlessFaulted u <| requireElse u.hvalid .noh u <| requireElse (tagAllowed u) .seq u k

theorem exec_taggen_eq (s : State) :
    exec .taggen s =
      .next { s with unit := tagChecked s.unit { s.unit with res := s.unit.y ^^^ s.cipherAt s.unit.cb } } := rfl

theorem tagChecked_pass {u : GhctrUnit} (k : GhctrUnit) (clear : u.err = .clear) (keyed : u.hvalid = true)
    (hp : u.phase = .done) : tagChecked u k = k := by
  rw [tagChecked, unlessFaulted_clear _ clear, requireElse_pass _ _ _ keyed,
    requireElse_pass _ _ _ ((tagAllowed_iff u).2 hp)]

theorem tagChecked_seq {u : GhctrUnit} (k : GhctrUnit) (clear : u.err = .clear) (keyed : u.hvalid = true)
    (hp : u.phase ≠ .done) : tagChecked u k = { u with err := .seq } := by
  rw [tagChecked, unlessFaulted_clear _ clear, requireElse_pass _ _ _ keyed,
    requireElse_fail _ _ _ (Bool.not_eq_true _ ▸ mt (tagAllowed_iff u).1 hp), raise_of_clear _ clear]

/-! ### `TAGGEN` (43_tag.md R157) -/

theorem exec_taggen_done {s : State} (clear : s.unit.err = .clear) (keyed : s.unit.hvalid = true)
    (hp : s.unit.phase = .done) :
    exec .taggen s = .next { s with unit := { s.unit with res := s.unit.y ^^^ s.cipherAt s.unit.cb } } :=
  next_congr_unit (tagChecked_pass _ clear keyed hp)

theorem exec_taggen_unkeyed {s : State} (clear : s.unit.err = .clear) (unkeyed : s.unit.hvalid = false) :
    exec .taggen s = .next { s with unit := { s.unit with err := .noh } } :=
  exec_unkeyed clear rfl (by decide) unkeyed

theorem exec_taggen_seq {s : State} (clear : s.unit.err = .clear) (keyed : s.unit.hvalid = true)
    (hp : s.unit.phase ≠ .done) : exec .taggen s = .next { s with unit := { s.unit with err := .seq } } :=
  next_congr_unit (tagChecked_seq _ clear keyed hp)

theorem exec_taggen_faulted {s : State} (hf : s.unit.err ≠ .clear) : exec .taggen s = .next s :=
  exec_refused hf nofun nofun

/-- R157: `RES` is not an operand, so a second `TAGGEN` writes the same tag; after a fault it is refused. -/
theorem exec_taggen_again {s t : State} (h : exec .taggen s = .next t) : exec .taggen t = .next t := by
  by_cases clear : s.unit.err = .clear
  case neg => cases (exec_taggen_faulted clear).symm.trans h; exact h
  cases keyed : s.unit.hvalid with
  | false => cases (exec_taggen_unkeyed clear keyed).symm.trans h; exact exec_taggen_faulted nofun
  | true =>
    by_cases hp : s.unit.phase = .done
    · cases (exec_taggen_done clear keyed hp).symm.trans h
      exact exec_taggen_done (s := { s with unit := { s.unit with res := s.unit.y ^^^ s.cipherAt s.unit.cb } })
        clear keyed hp
    · cases (exec_taggen_seq clear keyed hp).symm.trans h
      exact exec_taggen_faulted nofun

/-- R157: `CTRXOR` of all sixteen bytes of `Y` leaves the same `RES`. -/
theorem issue_opa_y_ctrxor {s : State} (clear : s.unit.err = .clear) :
    issue [.write (.opa s.unit.y), commandOp (.ctrxor 16)] s = .next { s with unit := { s.unit with
      opa := s.unit.y, res := s.unit.y ^^^ s.cipherAt s.unit.cb, cb := inc32 s.unit.cb } } := by
  have hwrite : performOp (.write (.opa s.unit.y)) s = .next { s with unit := { s.unit with opa := s.unit.y } } := rfl
  have hxor := (performOp_commandOp (.ctrxor 16) _).trans
    (exec_ctrxor_legal (nb := 16) (s := { s with unit := { s.unit with opa := s.unit.y } }) clear rfl)
  rw [issue_cons hwrite, issue_cons hxor, issue, keep_sixteen]
  rfl

/-- Settles O38: the next state for each outcome of the checks; both ways to the tag write it to `RES`. -/
theorem taggenFormsTheTag : Obligations.TaggenFormsTheTag := by
  refine ⟨rfl, fun _ => exec_taggen_done, fun _ => exec_taggen_unkeyed, fun _ => exec_taggen_seq,
    fun _ => exec_taggen_faulted, fun _ _ => exec_taggen_again, fun s t t' clear keyed hp htag hxor => ?_, by decide⟩
  cases (exec_taggen_done clear keyed hp).symm.trans htag
  cases (issue_opa_y_ctrxor clear).symm.trans hxor
  rfl

/-! ### `TAGCMP` (43_tag.md R158) -/

/-- R158: what the comparison with the expected tag makes of the unit, once the checks have passed. -/
def tagCompared (u : GhctrUnit) (expected : Block) : GhctrUnit :=
  if tagEqual u.opa expected then { u with res := 0, tagok := true }
  else raise .auth { u with res := 0, tagok := false }

theorem exec_tagcmp_eq (s : State) :
    exec .tagcmp s = .next { s with
      unit := tagChecked s.unit (tagCompared s.unit (s.unit.y ^^^ s.cipherAt s.unit.cb)) } := rfl

theorem tagCompared_match {u : GhctrUnit} {expected : Block} (same : u.opa = expected) :
    tagCompared u expected = { u with res := 0, tagok := true } :=
  if_pos ((tagEqual_iff _ _).2 same)

theorem tagCompared_mismatch {u : GhctrUnit} {expected : Block} (clear : u.err = .clear) (differs : u.opa ≠ expected) :
    tagCompared u expected = { u with res := 0, tagok := false, err := .auth } :=
  (if_neg (mt (tagEqual_iff _ _).1 differs)).trans (raise_of_clear .auth clear)

theorem exec_tagcmp_match {s : State} (clear : s.unit.err = .clear) (keyed : s.unit.hvalid = true)
    (hp : s.unit.phase = .done) (same : s.unit.opa = s.unit.y ^^^ s.cipherAt s.unit.cb) :
    exec .tagcmp s = .next { s with unit := { s.unit with res := 0, tagok := true } } := by
  rw [exec_tagcmp_eq, tagChecked_pass _ clear keyed hp, tagCompared_match same]

theorem exec_tagcmp_mismatch {s : State} (clear : s.unit.err = .clear) (keyed : s.unit.hvalid = true)
    (hp : s.unit.phase = .done) (differs : s.unit.opa ≠ s.unit.y ^^^ s.cipherAt s.unit.cb) :
    exec .tagcmp s = .next { s with unit := { s.unit with res := 0, tagok := false, err := .auth } } := by
  rw [exec_tagcmp_eq, tagChecked_pass _ clear keyed hp, tagCompared_mismatch clear differs]

theorem exec_tagcmp_seq {s : State} (clear : s.unit.err = .clear) (keyed : s.unit.hvalid = true)
    (hp : s.unit.phase ≠ .done) : exec .tagcmp s = .next { s with unit := { s.unit with err := .seq } } :=
  next_congr_unit (tagChecked_seq _ clear keyed hp)

/-- R30: of the commands that write `TAGOK` (R42), and reset, three can clear it. -/
theorem tagok_cleared_by {i : Instr} {s t : State} (hx : exec i s = .next t) (before : s.unit.tagok = true)
    (after : t.unit.tagok = false) : i = .ghinit ∨ i = .tagcmp ∨ i = .sreset := by
  by_cases hi : i = .sreset
  · exact .inr (.inr hi)
  obtain ⟨-, -, -, -, -, -, -, -, -, htagok, -⟩ := commandsWriteOnlyTheirComponents i s t hx hi
  rcases htagok (by simp [before, after]) with ⟨h, -⟩ | h
  · exact .inl h
  · exact .inr (.inl h)

/-- Settles O39: the next state for each outcome of the checks and of the comparison; then the faulted state refuses
(`executeWord_refused`). -/
theorem tagcmpComparesTheTag : Obligations.TagcmpComparesTheTag :=
  ⟨rfl, fun _ => exec_tagcmp_match, fun _ => exec_tagcmp_mismatch,
    fun _ clear unkeyed => exec_unkeyed clear rfl (by decide) unkeyed, fun _ => exec_tagcmp_seq,
    fun _ hf => exec_refused hf nofun nofun,
    fun _ t _ _ hauth hc hs => executeWord_refused (fun clear => by cases hauth.symm.trans clear) hc hs,
    fun _ _ _ => tagok_cleared_by, by decide, by decide⟩

end Sys2Proof.Machine
end

section
/-! PROOFS. The host's sequences (spec 45_gcm_sequences.md R178, R179), from any unfaulted unit: `ghash.msg` leaves the
hash of its two strings in `Y`, `ctr.data` returns the counter-mode encryption of its data. -/

namespace Sys2Proof.Machine

/-! ### Handing over a string, piece by piece (45_gcm_sequences.md R178) -/

theorem issue_append {os : List HostOp} {s t : State} (h : issue os s = .next t) (rest : List HostOp) :
    issue (os ++ rest) s = issue rest t := by
  induction os generalizing s with
  | nil => cases h; rfl
  | cons o os ih =>
    obtain ⟨u, r, ho⟩ := performOp_next o s
    rw [List.cons_append, issue_cons ho, ih ((issue_cons ho os).symm.trans h)]

theorem performOp_write_opa (v : Block) (s : State) :
    performOp (.write (.opa v)) s = .next { s with unit := { s.unit with opa := v } } := rfl

theorem performOp_write_cb (v : Block) (s : State) :
    performOp (.write (.cb v)) s = .next { s with unit := { s.unit with cb := v } } := rfl

/-- The two operations of a piece are the command on the unit with the piece in `OPA`. -/
theorem issue_chunkOps {cmd : Count → Instr} {c : List Byte} {s t : State}
    (h : exec (cmd (BitVec.ofNat 5 c.length)) { s with unit := { s.unit with opa := blockOfBytes c } } = .next t) :
    issue (chunkOps cmd c) s = .next t := by
  rw [chunkOps, issue_cons (performOp_write_opa _ s), issue_cons ((performOp_commandOp _ _).trans h), issue]

/-- A string handed over as its pieces: what `absorbed` says of one piece, and of a whole piece before more data, it
says of the string. `takes` is what the unit must be like for the command to accept the data. -/
theorem issue_chunks {cmd : Count → Instr} {absorbed : GhctrUnit → List Byte → GhctrUnit}
    {takes : GhctrUnit → List Byte → Prop} (nil : ∀ u, absorbed u [] = u)
    (piece : ∀ (s : State) (p : List Byte), takes s.unit p → 0 < p.length → p.length ≤ 16 →
      issue (chunkOps cmd p) s = .next { s with unit := absorbed s.unit p })
    (whole : ∀ (u : GhctrUnit) (p d : List Byte), takes u (p ++ d) → p.length = 16 →
      takes u p ∧ takes (absorbed u p) d ∧ absorbed (absorbed u p) d = absorbed u (p ++ d))
    {d : List Byte} {s : State} (h : takes s.unit d) :
    issue ((chunks d).flatMap (chunkOps cmd)) s = .next { s with unit := absorbed s.unit d } := by
  induction d using chunk_induction generalizing s with
  | nil => rw [nil]; rfl
  | short p h0 h16 => rw [chunks_short p h0 h16.le, List.flatMap_singleton, piece s p h h0 h16.le]
  | whole p d hp ih =>
    obtain ⟨hfirst, hrest, heq⟩ := whole s.unit p d h hp
    rw [chunks_cons p d hp, List.flatMap_cons, issue_append (piece s p hfirst (by omega) hp.le),
      ih (s := { s with unit := absorbed s.unit p }) hrest, heq]

/-! ### The blocks, the length and the last piece of a string (41_ghash.md R121, R122) -/

theorem chunkCount_toNat {c : List Byte} (h16 : c.length ≤ 16) : (BitVec.ofNat 5 c.length).toNat = c.length := by
  rw [BitVec.toNat_ofNat]
  omega

theorem chunkCount_legal {c : List Byte} (h0 : 0 < c.length) (h16 : c.length ≤ 16) :
    countLegal (BitVec.ofNat 5 c.length) = true :=
  countLegal_of_range (by rwa [chunkCount_toNat h16]) (by rwa [chunkCount_toNat h16])

theorem chunkBits_chunkCount {c : List Byte} (h16 : c.length ≤ 16) :
    chunkBits (BitVec.ofNat 5 c.length) = bitLength c := by
  rw [chunkBits, chunkCount_toNat h16, bitLength]

/-- R7: nothing stands behind a left-justified piece. -/
theorem keep_blockOfBytes {c : List Byte} (h16 : c.length ≤ 16) :
    keep (blockOfBytes c) (BitVec.ofNat 5 c.length) = blockOfBytes c := by
  apply block_ext
  intro i hi
  rw [byte_keep _ _ hi, chunkCount_toNat h16, byte_blockOfBytes _ _ hi]
  split
  case isTrue => rfl
  case isFalse hge => exact (List.getD_eq_default _ _ (Nat.not_lt.1 hge)).symm

theorem padBlocks_short {p : List Byte} (h0 : 0 < p.length) (h16 : p.length ≤ 16) :
    padBlocks p = [blockOfBytes p] := by
  rw [padBlocks, chunks_short p h0 h16, List.map_singleton]

theorem padBlocks_append {p : List Byte} (d : List Byte) (hp : p.length = 16) :
    padBlocks (p ++ d) = blockOfBytes p :: padBlocks d := by
  rw [padBlocks, chunks_cons p d hp, List.map_cons, padBlocks]

theorem bitLength_append (c d : List Byte) : bitLength (c ++ d) = bitLength c + bitLength d := by
  rw [bitLength, List.length_append, Nat.mul_add, BitVec.ofNat_add, bitLength, bitLength]

/-- R126, R127: a counter in range grows by the length in bits. -/
theorem counter_add_bitLength_toNat {bits : BitCount} {d : List Byte} (fits : bits.toNat + 8 * d.length < 2 ^ 64) :
    (bits + bitLength d).toNat = bits.toNat + 8 * d.length := by
  rw [BitVec.toNat_add, bitLength_toNat d (by omega), Nat.mod_eq_of_lt fits]

theorem lengthFits_of_lt {bits : BitCount} {c : List Byte} (h16 : c.length ≤ 16)
    (fits : bits.toNat + 8 * c.length < 2 ^ 64) : lengthFits bits (BitVec.ofNat 5 c.length) = true := by
  rw [lengthFits_iff, chunkCount_toNat h16]
  omega

/-- What `OPA` holds after a string has been handed over: its last piece, or the old value `v` when it has none. -/
def lastOperand (v : Block) (d : List Byte) : Block := (padBlocks d).getLastD v

theorem lastOperand_nil (v : Block) : lastOperand v [] = v := rfl

theorem lastOperand_short (v : Block) {p : List Byte} (h0 : 0 < p.length) (h16 : p.length ≤ 16) :
    lastOperand v p = blockOfBytes p := by
  rw [lastOperand, padBlocks_short h0 h16]
  rfl

theorem lastOperand_append (v : Block) {p : List Byte} (d : List Byte) (hp : p.length = 16) :
    lastOperand v (p ++ d) = lastOperand (blockOfBytes p) d := by
  rw [lastOperand, padBlocks_append d hp, List.getLastD_cons, lastOperand]

theorem ghashBlocks_short (h y : Block) {p : List Byte} (h0 : 0 < p.length) (h16 : p.length ≤ 16) :
    ghashBlocks h y (padBlocks p) = ghashStep h y (blockOfBytes p) := by
  rw [padBlocks_short h0 h16]
  rfl

theorem ghashBlocks_append (h y : Block) {p : List Byte} (d : List Byte) (hp : p.length = 16) :
    ghashBlocks h y (padBlocks (p ++ d)) = ghashBlocks h (ghashStep h y (blockOfBytes p)) (padBlocks d) := by
  rw [padBlocks_append d hp]
  rfl

/-- R126, R127: the GHASH step of a piece, as the chunk commands write it. -/
theorem piece_y {u : GhctrUnit} {p : List Byte} (table : TableMatches u) (h16 : p.length ≤ 16) :
    tblmul u.tbl (u.y ^^^ keep (blockOfBytes p) (BitVec.ofNat 5 p.length)) = ghashStep u.h u.y (blockOfBytes p) := by
  rw [keep_blockOfBytes h16, tblmul_tableMatches table, ghashStep]

/-- R126, R127: the counter of a piece, as the chunk commands write it. -/
theorem piece_counter (bits : BitCount) {p : List Byte} (h16 : p.length ≤ 16) :
    BitVec.ofNat 64 (bits.toNat + 8 * (BitVec.ofNat 5 p.length).toNat) = bits + bitLength p := by
  rw [← counter_add_eq, chunkBits_chunkCount h16]

/-! ### The AAD of a message (41_ghash.md R126) -/

/-- What the unit must be like to take all of `d` as AAD. -/
structure TakesAad (u : GhctrUnit) (d : List Byte) : Prop where
  sound : u.err = .clear
  keyed : u.hvalid = true
  table : TableMatches u
  phase : u.phase = .aad
  whole : u.lena.toNat % 128 = 0
  fits : u.lena.toNat + 8 * d.length < 2 ^ 64

/-- The unit after all of `d` has been handed over as AAD. -/
def aadAbsorbed (u : GhctrUnit) (d : List Byte) : GhctrUnit :=
  { u with opa := lastOperand u.opa d, y := ghashBlocks u.h u.y (padBlocks d), lena := u.lena + bitLength d }

theorem aadAbsorbed_nil (u : GhctrUnit) : aadAbsorbed u [] = u := by
  simp [aadAbsorbed, lastOperand_nil, padBlocks_nil, ghashBlocks, bitLength]

theorem issue_ghaad_piece (s : State) (p : List Byte) (h : TakesAad s.unit p) (h0 : 0 < p.length)
    (h16 : p.length ≤ 16) :
    issue (chunkOps .ghaad p) s = .next { s with unit := aadAbsorbed s.unit p } := by
  obtain ⟨hn, hn16⟩ := (countLegal_iff _).1 (chunkCount_legal h0 h16)
  have hx := exec_ghaad_absorbs (s := { s with unit := { s.unit with opa := blockOfBytes p } }) h.sound hn hn16
    h.keyed h.phase h.whole ((lengthFits_iff _ _).1 (lengthFits_of_lt h16 h.fits))
  refine issue_chunkOps (hx.trans (next_congr_unit ?_))
  rw [piece_y h.table h16, piece_counter _ h16, aadAbsorbed, lastOperand_short _ h0 h16,
    ghashBlocks_short _ _ h0 h16]

theorem aadAbsorbed_append (u : GhctrUnit) (p d : List Byte) (h : TakesAad u (p ++ d)) (hp : p.length = 16) :
    TakesAad u p ∧ TakesAad (aadAbsorbed u p) d ∧ aadAbsorbed (aadAbsorbed u p) d = aadAbsorbed u (p ++ d) := by
  have h0 : 0 < p.length := by omega
  have hfits := h.fits
  rw [List.length_append] at hfits
  have hcounter : (u.lena + bitLength p).toNat = u.lena.toNat + 8 * p.length := counter_add_bitLength_toNat (by omega)
  have hwhole := h.whole
  refine ⟨{ h with fits := by omega }, { h with whole := ?_, fits := ?_ }, ?_⟩
  · show (u.lena + bitLength p).toNat % 128 = 0
    omega
  · show (u.lena + bitLength p).toNat + _ < _
    omega
  · simp only [aadAbsorbed, lastOperand_short _ h0 hp.le, lastOperand_append _ d hp, ghashBlocks_short _ _ h0 hp.le,
      ghashBlocks_append _ _ d hp, bitLength_append, BitVec.add_assoc]

/-- R126: the chunks of a string of AAD. -/
theorem issue_ghaad_chunks {d : List Byte} {s : State} (h : TakesAad s.unit d) :
    issue ((chunks d).flatMap (chunkOps .ghaad)) s = .next { s with unit := aadAbsorbed s.unit d } :=
  issue_chunks aadAbsorbed_nil issue_ghaad_piece aadAbsorbed_append h

/-! ### The ciphertext of a message (41_ghash.md R127) -/

/-- What the unit must be like to take all of `d` as ciphertext. -/
structure TakesCiphertext (u : GhctrUnit) (d : List Byte) : Prop where
  sound : u.err = .clear
  keyed : u.hvalid = true
  table : TableMatches u
  phase : u.phase = .aad ∨ u.phase = .ct
  whole : u.lenc.toNat % 128 = 0
  fits : u.lenc.toNat + 8 * d.length < 2 ^ 64

/-- The unit after all of `d` has been handed over as ciphertext; with no chunk the phase does not change. -/
def ciphertextAbsorbed (u : GhctrUnit) (d : List Byte) : GhctrUnit :=
  { u with opa := lastOperand u.opa d, y := ghashBlocks u.h u.y (padBlocks d), lenc := u.lenc + bitLength d,
           phase := if d = [] then u.phase else .ct }

theorem ciphertextAbsorbed_nil (u : GhctrUnit) : ciphertextAbsorbed u [] = u := by
  simp [ciphertextAbsorbed, lastOperand_nil, padBlocks_nil, ghashBlocks, bitLength]

theorem issue_ghct_piece (s : State) (p : List Byte) (h : TakesCiphertext s.unit p) (h0 : 0 < p.length)
    (h16 : p.length ≤ 16) :
    issue (chunkOps .ghct p) s = .next { s with unit := ciphertextAbsorbed s.unit p } := by
  obtain ⟨hn, hn16⟩ := (countLegal_iff _).1 (chunkCount_legal h0 h16)
  have hx := exec_ghct_absorbs (s := { s with unit := { s.unit with opa := blockOfBytes p } }) h.sound hn hn16
    h.keyed h.phase h.whole ((lengthFits_iff _ _).1 (lengthFits_of_lt h16 h.fits))
  refine issue_chunkOps (hx.trans (next_congr_unit ?_))
  rw [piece_y h.table h16, piece_counter _ h16, ciphertextAbsorbed, if_neg (List.ne_nil_of_length_pos h0),
    lastOperand_short _ h0 h16, ghashBlocks_short _ _ h0 h16]

theorem ciphertextAbsorbed_append (u : GhctrUnit) (p d : List Byte) (h : TakesCiphertext u (p ++ d))
    (hp : p.length = 16) :
    TakesCiphertext u p ∧ TakesCiphertext (ciphertextAbsorbed u p) d ∧
      ciphertextAbsorbed (ciphertextAbsorbed u p) d = ciphertextAbsorbed u (p ++ d) := by
  have h0 : 0 < p.length := by omega
  have hne : p ≠ [] := List.ne_nil_of_length_pos h0
  have hfits := h.fits
  rw [List.length_append] at hfits
  have hcounter : (u.lenc + bitLength p).toNat = u.lenc.toNat + 8 * p.length := counter_add_bitLength_toNat (by omega)
  have hwhole := h.whole
  refine ⟨{ h with fits := by omega }, { h with phase := .inr (if_neg hne), whole := ?_, fits := ?_ }, ?_⟩
  · show (u.lenc + bitLength p).toNat % 128 = 0
    omega
  · show (u.lenc + bitLength p).toNat + _ < _
    omega
  · simp only [ciphertextAbsorbed, lastOperand_short _ h0 hp.le, lastOperand_append _ d hp,
      ghashBlocks_short _ _ h0 hp.le, ghashBlocks_append _ _ d hp, bitLength_append, BitVec.add_assoc, if_neg hne,
      ite_self, if_neg (List.append_ne_nil_of_left_ne_nil hne d)]

/-- R127: the chunks of a string of ciphertext. -/
theorem issue_ghct_chunks {d : List Byte} {s : State} (h : TakesCiphertext s.unit d) :
    issue ((chunks d).flatMap (chunkOps .ghct)) s = .next { s with unit := ciphertextAbsorbed s.unit d } :=
  issue_chunks ciphertextAbsorbed_nil issue_ghct_piece ciphertextAbsorbed_append h

/-! ### A whole message (41_ghash.md R129, 45_gcm_sequences.md R178) -/

theorem issue_command {i : Instr} {s t : State} (h : exec i s = .next t) : issue [commandOp i] s = .next t := by
  rw [issue_cons ((performOp_commandOp i s).trans h), issue]

/-- R125: the unit after `GHINIT`. -/
def messageBegun (u : GhctrUnit) : GhctrUnit := { u with y := 0, lena := 0, lenc := 0, phase := .aad, tagok := false }

/-- R128, R129: the unit after `ghash.msg`. -/
def messageHashed (u : GhctrUnit) (a c : List Byte) : GhctrUnit :=
  { u with opa := lastOperand (lastOperand u.opa a) c, y := ghash u.h a c, lena := bitLength a, lenc := bitLength c,
           phase := .done, tagok := false }

/-- R128: the length block behind the chunks of both strings makes the accumulator their hash. -/
theorem ghlen_messageHashed {u w : GhctrUnit} {a c : List Byte} (table : TableMatches u) (ha : 8 * a.length < 2 ^ 64)
    (hc : 8 * c.length < 2 ^ 64) (hw : w = ciphertextAbsorbed (aadAbsorbed (messageBegun u) a) c) :
    { absorb (lenBlock w.lena w.lenc) w with phase := .done } = messageHashed u a c := by
  have hla : w.lena = bitLength a := by rw [hw]; exact BitVec.zero_add _
  have hlc : w.lenc = bitLength c := by rw [hw]; exact BitVec.zero_add _
  have hy : (absorb (lenBlock w.lena w.lenc) w).y = ghash u.h a c := by
    rw [hla, hlc, ghash_of_lt _ ha hc, absorb_y_eq_ghashStep (by rw [hw]; exact table), hw]
    rfl
  show { w with y := (absorb (lenBlock w.lena w.lenc) w).y, lena := w.lena, lenc := w.lenc, phase := .done } = _
  rw [hy, hla, hlc, hw]
  rfl

/-- R129, R178: `ghash.msg` on an unfaulted unit with a subkey does not fault, and leaves the hash in `Y`. -/
theorem issue_ghashMsg {a c : List Byte} {s : State} (clear : s.unit.err = .clear) (keyed : s.unit.hvalid = true)
    (table : TableMatches s.unit) (ha : 8 * a.length < 2 ^ 64) (hc : 8 * c.length < 2 ^ 64) :
    issue (ghashMsg a c) s = .next { s with unit := messageHashed s.unit a c } := by
  have hinit : issue [commandOp .ghinit] s = .next { s with unit := messageBegun s.unit } :=
    issue_command (exec_ghinit_clear clear)
  have haad := issue_ghaad_chunks (d := a) (s := { s with unit := messageBegun s.unit })
    ⟨clear, keyed, table, rfl, rfl, (Nat.zero_add _).trans_lt ha⟩
  have hct := issue_ghct_chunks (d := c) (s := { s with unit := aadAbsorbed (messageBegun s.unit) a })
    ⟨clear, keyed, table, .inl rfl, rfl, (Nat.zero_add _).trans_lt hc⟩
  have hphase : (ciphertextAbsorbed (aadAbsorbed (messageBegun s.unit) a) c).phase = .aad ∨
      (ciphertextAbsorbed (aadAbsorbed (messageBegun s.unit) a) c).phase = .ct := by
    by_cases hd : c = []
    · exact .inl (if_pos hd)
    · exact .inr (if_neg hd)
  have hlen := exec_ghlen_finishes
    (s := { s with unit := ciphertextAbsorbed (aadAbsorbed (messageBegun s.unit) a) c }) clear keyed hphase
  rw [ghashMsg, List.append_assoc, List.append_assoc, issue_append hinit, issue_append haad, issue_append hct,
    issue_command hlen]
  exact next_congr_unit (ghlen_messageHashed table ha hc rfl)

/-! ### Counter mode (42_ctr.md R147, 45_gcm_sequences.md R179) -/

theorem firstBytes_bits128 (v : Block) (n : Nat) : firstBytes (.bits128 v) n = (blockBytes v).take n := by
  rw [firstBytes, PortValue.toNat, BitVec.ofNat_toNat, BitVec.setWidth_eq]

/-- R146, R179: the bytes read of a piece are the piece under the keystream block `k`. -/
theorem firstBytes_ctrxor {c : List Byte} (k : Block) (h16 : c.length ≤ 16) :
    firstBytes (.bits128 (keep (blockOfBytes c ^^^ k) (BitVec.ofNat 5 c.length))) c.length =
      xorBytes c (blockBytes k) := by
  have hk := length_le_blockBytes k h16
  rw [firstBytes_bits128]
  apply List.ext_getElem
  · rw [List.length_take, blockBytes_length, xorBytes_length hk, Nat.min_eq_left h16]
  · intro i hi _
    have hlt : i < c.length := (List.length_take_le _ _).trans_lt' hi
    simp [xorBytes, blockBytes, byte_keep_xor _ _ _ (hlt.trans_le h16), byte_blockOfBytes _ _ (hlt.trans_le h16),
      chunkCount_toNat h16, hlt]

/-- R146: the unit after one piece of `ctr.data`, under the keystream block `k`. -/
def pieceEncrypted (u : GhctrUnit) (k : Block) (c : List Byte) : GhctrUnit :=
  { u with opa := blockOfBytes c, res := keep (blockOfBytes c ^^^ k) (BitVec.ofNat 5 c.length), cb := inc32 u.cb }

/-- R179: the machine after one piece, its result read. -/
def pieceRead (s : State) (c : List Byte) : State :=
  { s with unit := pieceEncrypted s.unit (s.cipherAt s.unit.cb) c
           replies := s.replies ++ [.bits128 (pieceEncrypted s.unit (s.cipherAt s.unit.cb) c).res] }

theorem issue_ctrxor_piece {c : List Byte} {s : State} (clear : s.unit.err = .clear) (h0 : 0 < c.length)
    (h16 : c.length ≤ 16) :
    issue (chunkOps .ctrxor c) s = .next { s with unit := pieceEncrypted s.unit (s.cipherAt s.unit.cb) c } :=
  issue_chunkOps (exec_ctrxor_legal (s := { s with unit := { s.unit with opa := blockOfBytes c } }) clear
    (chunkCount_legal h0 h16))

theorem ctrPass_nil (s : State) : ctrPass [] s = .next (s, []) := rfl

theorem ctrPass_cons {c : List Byte} {cs : List (List Byte)} {s t : State} {out : List Byte}
    (clear : s.unit.err = .clear) (h0 : 0 < c.length) (h16 : c.length ≤ 16)
    (hrest : ctrPass cs (pieceRead s c) = .next (t, out)) :
    ctrPass (c :: cs) s = .next (t, xorBytes c (blockBytes (s.cipherAt s.unit.cb)) ++ out) := by
  rw [← firstBytes_ctrxor _ h16]
  unfold ctrPass
  rw [issue_ctrxor_piece clear h0 h16]
  show andThen (ctrPass cs (pieceRead s c)) _ = _
  rw [hrest]
  rfl

/-- `t` differs from `s` in the components that `ctr.data` writes for `n` pieces: `OPA`, `RES`, `CB`, and the host's
replies. -/
def AdvancedBy (n : Nat) (s t : State) : Prop :=
  ∃ (opa res : Block) (replies : List PortValue),
    t = { s with unit := { s.unit with opa := opa, res := res, cb := inc32^[n] s.unit.cb }, replies := replies }

/-- R147: the pieces of `d`, from any unfaulted unit: the data under the keystream from `CB` on. -/
theorem ctrPass_chunks (d : List Byte) (s : State) (clear : s.unit.err = .clear) :
    ∃ t, ctrPass (chunks d) s = .next (t, encryptCtr s.cipherAt s.unit.cb d) ∧
      AdvancedBy ((d.length + 15) / 16) s t := by
  induction d using chunk_induction generalizing s with
  | nil => exact ⟨s, rfl, _, _, _, rfl⟩
  | short p h0 h16 =>
    have hpass := ctrPass_cons clear h0 h16.le (ctrPass_nil _)
    rw [List.append_nil, ← encryptCtr_short _ _ h0 h16.le] at hpass
    rw [chunks_short p h0 h16.le, show (p.length + 15) / 16 = 1 by omega]
    exact ⟨_, hpass, _, _, _, rfl⟩
  | whole p d hp ih =>
    obtain ⟨t, hrest, opa, res, replies, rfl⟩ := ih (pieceRead s p) clear
    have hpass := ctrPass_cons clear (by omega) hp.le hrest
    rw [chunks_cons p d hp, encryptCtr_append _ _ d hp, List.length_append,
      show (p.length + d.length + 15) / 16 = (d.length + 15) / 16 + 1 by omega]
    exact ⟨_, hpass, _, _, _, rfl⟩

/-- R147, R179: `ctr.data` does not fault and returns the encryption of its data. -/
theorem ctrData_eq (start : Block) (d : List Byte) {s : State} (clear : s.unit.err = .clear) :
    ∃ t, ctrData start d s = .next (t, encryptCtr s.cipherAt start d) ∧
      AdvancedBy ((d.length + 15) / 16) { s with unit := { s.unit with cb := start } } t :=
  ctrPass_chunks d { s with unit := { s.unit with cb := start } } clear

end Sys2Proof.Machine
end

section
/-! PROOFS. The two calls of the engine (spec 45_gcm_sequences.md R175, R180 to R182): the record `gcm.enc` answers, and
`gcm.dec` on a record with another tag. -/

namespace Sys2Proof.Machine

/-! ### The engine between calls (45_gcm_sequences.md R175) -/

/-- R175: `Ready` reads the subkey, its table, `HVALID`, `ERR` and the cipher alone. -/
theorem ready_congr {s t : State} (ready : Ready s) (hkeyed : t.unit.hvalid = s.unit.hvalid)
    (hh : t.unit.h = s.unit.h) (htbl : t.unit.tbl = s.unit.tbl) (herr : t.unit.err = s.unit.err)
    (hcipher : t.cipher = s.cipher) : Ready t where
  keyed := hkeyed.trans ready.keyed
  subkey := by rw [hh, cipherAt_congr hcipher]; exact ready.subkey
  table := by rw [TableMatches, htbl, hh]; exact ready.table
  sound := herr.trans ready.sound

theorem ready_advancedBy {n : Nat} {start : Block} {s t : State} (ready : Ready s)
    (h : AdvancedBy n { s with unit := { s.unit with cb := start } } t) : Ready t := by
  obtain ⟨opa, res, replies, rfl⟩ := h
  exact ready_congr ready rfl rfl rfl rfl rfl

/-! ### Encryption (45_gcm_sequences.md R181) -/

theorem firstBytes_sixteen (v : Block) : firstBytes (.bits128 v) 16 = blockBytes v := by
  rw [firstBytes_bits128, List.take_of_length_le (blockBytes_length v).le]

/-- R181 steps 4 to 6: the tag of a message, formed in `RES`. -/
theorem issue_formTag {a c : List Byte} (j0 : Block) {s : State} (ready : Ready s) (ha : 8 * a.length < 2 ^ 64)
    (hc : 8 * c.length < 2 ^ 64) :
    issue (ghashMsg a c ++ [.write (.cb j0), commandOp .taggen]) s = .next { s with unit := {
      messageHashed s.unit a c with cb := j0, res := gcmTag s.cipherAt s.unit.h j0 a c } } := by
  rw [issue_append (issue_ghashMsg ready.sound ready.keyed ready.table ha hc), issue_cons (performOp_write_cb _ _)]
  exact issue_command (exec_taggen_done ready.sound ready.keyed rfl)

/-- R181: `gcm.enc` answers the record, and leaves the engine ready. -/
theorem gcmEnc_eq {n p a : List Byte} {s : State} (ready : Ready s) (hn : n.length = 12)
    (hp : 8 * p.length < 2 ^ 64) (ha : 8 * a.length < 2 ^ 64) :
    ∃ t, gcmEnc n p a s = .next (t, .ok (n ++ encryptCtr s.cipherAt (inc32 (preCounter n)) p ++
        blockBytes (gcmTag s.cipherAt (s.cipherAt 0) (preCounter n) a
          (encryptCtr s.cipherAt (inc32 (preCounter n)) p)))) ∧
      Ready t ∧ t.cipher = s.cipher ∧ t.unit.h = s.unit.h ∧ t.unit.tbl = s.unit.tbl := by
  obtain ⟨t, hctr, hadv⟩ := ctrData_eq (inc32 (preCounter n)) p ready.sound
  have hready := ready_advancedBy ready hadv
  obtain ⟨opa, res, replies, rfl⟩ := hadv
  have htag := issue_formTag (preCounter n) hready ha
    (by rwa [encryptCtr_length] : 8 * (encryptCtr s.cipherAt (inc32 (preCounter n)) p).length < 2 ^ 64)
  rw [gcmEnc, if_pos hn, hctr, ← ready.subkey]
  simp only [andThen, htag, readOp, readReg, firstBytes_sixteen]
  exact ⟨_, rfl, ready_congr hready rfl rfl rfl rfl rfl, rfl, rfl, rfl⟩

/-! ### Decryption of a record with another tag (45_gcm_sequences.md R180, R182, R185) -/

/-- R182 steps 3 and 4, on another tag than that of the message: the comparison faults. -/
theorem issue_compareTag_mismatch {a c : List Byte} {j0 tag : Block} {s : State} (ready : Ready s)
    (ha : 8 * a.length < 2 ^ 64) (hc : 8 * c.length < 2 ^ 64)
    (differs : tag ≠ gcmTag s.cipherAt s.unit.h j0 a c) :
    issue (ghashMsg a c ++ [.write (.cb j0), .write (.opa tag), commandOp .tagcmp]) s = .next { s with unit := {
      messageHashed s.unit a c with cb := j0, opa := tag, res := 0, err := .auth } } := by
  rw [issue_append (issue_ghashMsg ready.sound ready.keyed ready.table ha hc), issue_cons (performOp_write_cb _ _),
    issue_cons (performOp_write_opa _ _)]
  exact issue_command (exec_tagcmp_mismatch ready.sound ready.keyed rfl differs)

/-- R182 step 4: the `STATUS` read after a mismatch. -/
theorem statusWord_mismatch {u : GhctrUnit} (keyed : u.hvalid = true) (hp : u.phase = .done) (hok : u.tagok = false)
    (hauth : u.err = .auth) : statusWord u = 0x00000607 := by
  rw [statusWord, keyed, hp, hok, hauth]
  decide

/-- R182 step 5: the host rejects on that `STATUS`. -/
theorem rejects_mismatch : rejects (.bits32 0x00000607) = true := by decide

theorem exec_clrerr (s : State) : exec .clrerr s = .next { s with unit := acknowledge s.unit } := rfl

/-- R180: the three parts of a record. -/
theorem record_parts {n c t : List Byte} (hn : n.length = 12) (ht : t.length = 16) :
    recordNonce (n ++ c ++ t) = n ∧ recordCiphertext (n ++ c ++ t) = c ∧ recordTag (n ++ c ++ t) = t := by
  have hlen : (n ++ c ++ t).length - 28 = c.length := by simp only [List.length_append]; omega
  refine ⟨?_, ?_, ?_⟩
  · rw [recordNonce, List.append_assoc, ← hn, List.take_left]
  · rw [recordCiphertext, hlen, List.append_assoc, ← hn, List.drop_left, List.take_left]
  · rw [recordTag, show (n ++ c ++ t).length - 16 = (n ++ c).length by simp only [List.length_append]; omega,
      List.drop_left]

/-- R182, R185: on a record with another tag than that of its message `gcm.dec` reads `STATUS` and answers the
authentication error; the fault is acknowledged. -/
theorem gcmDec_mismatch {n c t a : List Byte} {s : State} (ready : Ready s) (hn : n.length = 12) (ht : t.length = 16)
    (hc : 8 * c.length < 2 ^ 64) (ha : 8 * a.length < 2 ^ 64)
    (differs : blockOfBytes t ≠ gcmTag s.cipherAt (s.cipherAt 0) (preCounter n) a c) :
    gcmDec (n ++ c ++ t) a s = .next ({ s with
      unit := { messageHashed s.unit a c with cb := preCounter n, opa := blockOfBytes t, res := 0, err := .clear }
      replies := s.replies ++ [.bits32 0x00000607] }, .error .authenticationError) := by
  obtain ⟨hnonce, hcipher, htag⟩ := record_parts (c := c) hn ht
  have hlen : ¬ (n ++ c ++ t).length < 28 := by simp only [List.length_append]; omega
  have hcmp := issue_compareTag_mismatch ready ha hc (ready.subkey ▸ differs)
  have hstatus : statusWord { messageHashed s.unit a c with
      cb := preCounter n, opa := blockOfBytes t, res := 0, err := .auth } = 0x00000607 :=
    statusWord_mismatch ready.keyed rfl rfl rfl
  rw [gcmDec, if_neg hlen, hnonce, hcipher, htag, hcmp]
  simp only [andThen, readOp, readReg, hstatus]
  rw [if_pos rejects_mismatch, issue_command (exec_clrerr _)]
  rfl

end Sys2Proof.Machine
end

section
/-! PROOFS. What an altered record is worth (spec 43_tag.md R159): under a subkey that is not 0 the hash tells two
strings apart that differ in one block, and `gcm.dec` rejects. -/

namespace Sys2Proof.Machine

open Sys2Proof.Statements

/-! ### The hash as a function of one block (40_gf128.md R99 law 7, 41_ghash.md R120) -/

/-- R99 law 7: a product by a subkey that is not 0 can be undone. -/
theorem multiply_left_injective {h : Block} (hh : h ≠ 0) : Function.Injective fun a => multiply a h := by
  intro a b hab
  have hzero : multiply (a ^^^ b) h = 0 := (multiply_xor_left a b h).trans (BitVec.xor_eq_zero_iff.2 hab)
  exact BitVec.xor_eq_zero_iff.1 ((noZeroDivisors _ _ hzero).resolve_right hh)

/-- R123: a step keeps different accumulators apart. -/
theorem ghashStep_injective_accumulator {h : Block} (hh : h ≠ 0) (b : Block) :
    Function.Injective fun y => ghashStep h y b :=
  fun _ _ heq => (BitVec.xor_left_inj _).1 (multiply_left_injective hh heq)

/-- R123: a step tells different blocks apart. -/
theorem ghashStep_injective_block {h : Block} (hh : h ≠ 0) (y : Block) : Function.Injective (ghashStep h y) :=
  fun _ _ heq => (BitVec.xor_right_inj _).1 (multiply_left_injective hh heq)

/-- R120: the blocks that follow keep different accumulators apart. -/
theorem ghashBlocks_injective {h : Block} (hh : h ≠ 0) (bs : List Block) :
    Function.Injective fun y => ghashBlocks h y bs := by
  induction bs with
  | nil => exact fun _ _ heq => heq
  | cons b bs ih => exact fun _ _ heq => ghashStep_injective_accumulator hh b (ih heq)

/-- R120: two lists of blocks that differ in one block have different hashes. -/
theorem ghashBlocks_ne_of_one_block {h : Block} (hh : h ≠ 0) (y : Block) (before after : List Block) {b b' : Block}
    (hb : b ≠ b') : ghashBlocks h y (before ++ b :: after) ≠ ghashBlocks h y (before ++ b' :: after) := by
  have hcut : ∀ b, ghashBlocks h y (before ++ b :: after) =
      ghashBlocks h (ghashStep h (ghashBlocks h y before) b) after := fun b => by
    simp only [ghashBlocks, List.foldl_append, List.foldl_cons]
  rw [hcut, hcut]
  exact fun heq => hb (ghashStep_injective_block hh _ (ghashBlocks_injective hh after heq))

/-! ### Two strings that differ in one block (41_ghash.md R121) -/

/-- R121: block `j` of a string, padded with zeros. -/
def blockAt (d : List Byte) (j : Nat) : Block := blockOfBytes ((d.drop (16 * j)).take 16)

theorem padBlocks_eq_map_blockAt (d : List Byte) :
    padBlocks d = (List.range ((d.length + 15) / 16)).map (blockAt d) := by
  rw [padBlocks, chunks, List.map_map]
  rfl

/-- Byte `i` of block `j` is byte `16*j + i` of the string. -/
theorem byte_blockAt (d : List Byte) (j : Nat) {i : Nat} (hi : i < 16) :
    byte (blockAt d j) i = d.getD (16 * j + i) 0 := by
  rw [blockAt, byte_blockOfBytes _ _ hi, List.getD_eq_getElem?_getD, List.getElem?_take_of_lt hi, List.getElem?_drop,
    ← List.getD_eq_getElem?_getD]

/-- Two strings of one length that differ do so in some block of theirs. -/
theorem exists_blockAt_ne {d d' : List Byte} (hlen : d.length = d'.length) (hne : d ≠ d') :
    ∃ j < (d.length + 15) / 16, blockAt d j ≠ blockAt d' j := by
  by_contra hall
  push Not at hall
  refine hne (List.ext_getElem hlen fun m hm hm' => ?_)
  have hbyte := congrArg (byte · (m % 16)) (hall (m / 16) (by omega))
  simp only [byte_blockAt _ _ (Nat.mod_lt m (by decide : 16 > 0)), Nat.div_add_mod] at hbyte
  rwa [List.getD_eq_getElem _ _ hm, List.getD_eq_getElem _ _ hm'] at hbyte

/-- R121, R159: as lists of blocks, too, the two strings differ in one block. -/
theorem padBlocks_of_differInOneBlock {d d' : List Byte} (h : DifferInOneBlock d d') :
    ∃ (before after : List Block) (b b' : Block), b ≠ b' ∧
      padBlocks d = before ++ b :: after ∧ padBlocks d' = before ++ b' :: after := by
  obtain ⟨hlen, hne, k, hk⟩ := h
  have hsame : ∀ j, j ≠ k → blockAt d j = blockAt d' j := fun j hj => block_ext fun i hi => by
    rw [byte_blockAt _ _ hi, byte_blockAt _ _ hi, hk _ (by omega)]
  obtain ⟨j, hj, hdiff⟩ := exists_blockAt_ne hlen hne
  obtain rfl : j = k := by_contra fun hjk => hdiff (hsame j hjk)
  obtain ⟨before, after, hrange⟩ := List.append_of_mem (List.mem_range.2 hj)
  have hnodup := List.nodup_range (n := (d.length + 15) / 16)
  rw [hrange, List.nodup_middle, List.nodup_cons, List.mem_append, not_or] at hnodup
  obtain ⟨⟨hbefore, hafter⟩, -⟩ := hnodup
  have hmap : ∀ l : List Nat, j ∉ l → l.map (blockAt d') = l.map (blockAt d) := fun l hl =>
    List.map_congr_left fun m hm => (hsame m (fun hmj => hl (hmj ▸ hm))).symm
  refine ⟨before.map (blockAt d), after.map (blockAt d), _, _, hdiff, ?_, ?_⟩
  · rw [padBlocks_eq_map_blockAt, hrange, List.map_append, List.map_cons]
  · rw [padBlocks_eq_map_blockAt, ← hlen, hrange, List.map_append, List.map_cons, hmap _ hbefore, hmap _ hafter]

/-! ### The hash and the tag of altered data (43_tag.md R155, R159) -/

theorem bitLength_congr {d d' : List Byte} (hlen : d.length = d'.length) : bitLength d = bitLength d' := by
  rw [bitLength, hlen, bitLength]

theorem ghash_ne_of_ciphertext {h : Block} {a c c' : List Byte} (ha : 8 * a.length < 2 ^ 64)
    (hc : 8 * c.length < 2 ^ 64) (hh : h ≠ 0) (hd : DifferInOneBlock c c') : ghash h a c ≠ ghash h a c' := by
  obtain ⟨before, after, b, b', hb, hp, hp'⟩ := padBlocks_of_differInOneBlock hd
  rw [ghash_of_lt h ha hc, ghash_of_lt h ha (hd.1 ▸ hc), bitLength_congr hd.1, hp, hp']
  exact fun heq => ghashBlocks_ne_of_one_block hh _ before after hb (ghashStep_injective_accumulator hh _ heq)

theorem ghash_ne_of_aad {h : Block} {a a' c : List Byte} (ha : 8 * a.length < 2 ^ 64) (hc : 8 * c.length < 2 ^ 64)
    (hh : h ≠ 0) (hd : DifferInOneBlock a a') : ghash h a c ≠ ghash h a' c := by
  obtain ⟨before, after, b, b', hb, hp, hp'⟩ := padBlocks_of_differInOneBlock hd
  rw [ghash_of_lt h ha hc, ghash_of_lt h (hd.1 ▸ ha) hc, bitLength_congr hd.1, hp, hp']
  exact fun heq => ghashBlocks_ne_of_one_block hh _ before after hb
    (ghashBlocks_injective hh _ (ghashStep_injective_accumulator hh _ heq))

/-- R155: under one `E(J0)` different hashes are different tags. -/
theorem gcmTag_ne {e : Block → Block} {h j0 : Block} {a a' c c' : List Byte} (hne : ghash h a c ≠ ghash h a' c') :
    gcmTag e h j0 a c ≠ gcmTag e h j0 a' c' :=
  fun heq => hne ((BitVec.xor_left_inj _).1 heq)

/-- R5: sixteen bytes are the bytes of their value. -/
theorem blockBytes_blockOfBytes {d : List Byte} (hd : d.length = 16) : blockBytes (blockOfBytes d) = d := by
  apply List.ext_getElem
  · rw [blockBytes_length, hd]
  · intro i _ hi
    rw [← List.getD_eq_getElem _ 0, ← List.getD_eq_getElem _ 0, blockBytes_getD _ _ (hd ▸ hi),
      byte_blockOfBytes _ _ (hd ▸ hi)]

/-- Settles O59: the hashes by the injectivity of each step, the records by the tags that then differ
(`gcmDec_mismatch`); a flip in the tag alone needs no hash. -/
theorem tamperingIsDetected : Obligations.TamperingIsDetected := by
  refine ⟨fun h a c c' => ghash_ne_of_ciphertext, fun h a a' c => ghash_ne_of_aad,
    fun a c _ _ => ghash_zero_subkey a c, fun n p a s ready hn hp ha => ?_⟩
  obtain ⟨t, henc, hready, hcipher, -, -⟩ := gcmEnc_eq ready hn hp ha
  have hc : 8 * (encryptCtr s.cipherAt (inc32 (preCounter n)) p).length < 2 ^ 64 := by rwa [encryptCtr_length]
  rw [← cipherAt_congr hcipher] at henc hc ⊢
  refine ⟨_, _, t, henc, encryptCtr_length _ _ _, blockBytes_length _, fun tag' htag' hne => ?_, fun hh c' hd => ?_,
    fun hh a' hd => ?_⟩
  · exact ⟨_, gcmDec_mismatch hready hn htag' hc ha fun heq => hne (by rw [← heq, blockBytes_blockOfBytes htag'])⟩
  · exact ⟨_, gcmDec_mismatch hready hn (blockBytes_length _) (hd.1 ▸ hc) ha
      (by rw [blockOfBytes_blockBytes]; exact gcmTag_ne (ghash_ne_of_ciphertext ha hc hh hd))⟩
  · exact ⟨_, gcmDec_mismatch hready hn (blockBytes_length _) hc (hd.1 ▸ ha)
      (by rw [blockOfBytes_blockBytes]; exact gcmTag_ne (ghash_ne_of_aad ha hc hh hd))⟩

end Sys2Proof.Machine
end

section
/-! PROOFS. The control commands (spec 44_control.md): `NOP`, `CLRERR`, `SRESET`, which no check stands before. -/

namespace Sys2Proof.Machine

/-! ### `NOP` (44_control.md R165) -/

theorem exec_nop (s : State) : exec .nop s = .next s := rfl

/-- Settles O27. -/
theorem nopChangesNothing : Obligations.NopChangesNothing := ⟨rfl, exec_nop⟩

/-! ### `CLRERR` (44_control.md R166) -/

/-- There is nothing to acknowledge on a unit that is not faulted. -/
theorem acknowledge_of_clear {u : GhctrUnit} (clear : u.err = .clear) : acknowledge u = u := by
  rw [acknowledge, ← clear]

/-- R166, R206: a fault that is not `ERR_AUTH` has changed `ERR` alone, so acknowledging it gives the unit before it. -/
theorem acknowledge_after_fault {o : HostOp} {s t : State} (h : performOp o s = .next t) (before : s.unit.err = .clear)
    (after : t.unit.err ≠ .clear) (notAuth : t.unit.err ≠ .auth) : acknowledge t.unit = s.unit := by
  rcases performOp_outcome h with ((kept | cleared) | ⟨-, -, errOnly⟩) | ⟨-, mismatch⟩
  · exact absurd (kept.trans before) after
  · exact absurd cleared after
  · rw [errOnly]; exact acknowledge_of_clear before
  · exact absurd (mismatchFaulted_err mismatch) notAuth

/-- R26, R166: acknowledging takes the `ERR` field out of `STATUS` and leaves the fields below it. -/
theorem statusWord_acknowledge_toNat (u : GhctrUnit) :
    (statusWord (acknowledge u)).toNat = (statusWord u).toNat % 2 ^ 8 := by
  have hv := (flagBit u.hvalid).isLt
  have ph := u.phase.code.isLt
  have tk := (flagBit u.tagok).isLt
  rw [statusWord_toNat, statusWord_toNat, Nat.mul_add_mod, Nat.mod_eq_of_lt (by omega)]
  exact Nat.zero_add _

/-- Settles O40: `exec_clrerr` on any unit, on one that is not faulted (`acknowledge_of_clear`) and on one that an
operation has just faulted (`acknowledge_after_fault`); the other commands by `exec_refused`. -/
theorem clrerrAcknowledgesTheFault : Obligations.ClrerrAcknowledgesTheFault := by
  refine ⟨rfl, exec_clrerr, fun s clear => ?_, fun s => ?_, fun _ _ => exec_refused,
    fun o s t h before after notAuth => ?_, fun u hstatus => ?_⟩
  · exact (exec_clrerr s).trans (next_congr_unit (acknowledge_of_clear clear))
  · exact (executeWord_clrerr s).trans (exec_clrerr s)
  · exact (exec_clrerr t).trans (next_congr_unit (acknowledge_after_fault h before after notAuth))
  · apply BitVec.eq_of_toNat_eq
    exact (statusWord_acknowledge_toNat u).trans (by rw [hstatus]; rfl)

/-! ### `SRESET` (44_control.md R167) -/

theorem exec_sreset (s : State) : exec .sreset s = .next (resetUnit s) := rfl

theorem acceptInput_hardwareReset (s : State) : acceptInput .hardwareReset s = .next (resetUnit s) := rfl

/-- R9, R167: the block cipher is no part of the unit, so a reset does not reach it. -/
theorem cipherAt_resetUnit (s : State) : (resetUnit s).cipherAt = s.cipherAt := cipherAt_congr (resetUnit_cipher s)

/-- Settles O41: both resets answer `resetUnit`, whose unit is `GhctrUnit.reset`. -/
theorem sresetResetsTheUnit : Obligations.SresetResetsTheUnit := by
  refine ⟨rfl, exec_sreset, executeWord_sreset, fun s => ?_, fun s t h v => ?_⟩
  · exact (exec_sreset s).trans (acceptInput_hardwareReset s).symm
  · cases (exec_sreset s).symm.trans h
    exact congrFun (cipherAt_resetUnit s) v

end Sys2Proof.Machine
end

section
/-! PROOFS. What the host's sequences leave behind (spec 45_gcm_sequences.md R176, R178, R179): the last chunk in `OPA`
after `ghash.msg`, the state after `ctr.data`, and the bytes of the pre-counter block. -/

namespace Sys2Proof.Machine

/-! ### `ghash.msg` (45_gcm_sequences.md R178) -/

theorem lastOperand_eq (v : Block) (d : List Byte) :
    lastOperand v d = ((chunks d).getLast?.map blockOfBytes).getD v := by
  rw [lastOperand, padBlocks, List.getLastD_eq_getLast?, List.getLast?_map]

/-- R178: after both strings `OPA` holds the last chunk of either. -/
theorem lastOperand_lastOperand (v : Block) (a c : List Byte) :
    lastOperand (lastOperand v a) c = ((chunks a ++ chunks c).getLast?.map blockOfBytes).getD v := by
  rw [lastOperand_eq, lastOperand_eq, List.getLast?_append]
  cases (chunks c).getLast? <;> rfl

/-- R178: two operations for each chunk. -/
theorem flatMap_chunkOps_length (cmd : Count → Instr) (d : List Byte) :
    ((chunks d).flatMap (chunkOps cmd)).length = 2 * ((d.length + 15) / 16) := by
  rw [List.length_flatMap, ← chunks_length]
  simp [chunkOps, Nat.mul_comm]

theorem ghashMsg_length (a c : List Byte) :
    (ghashMsg a c).length = 2 * ((a.length + 15) / 16) + 2 * ((c.length + 15) / 16) + 2 := by
  simp only [ghashMsg, List.length_append, flatMap_chunkOps_length, List.length_singleton]
  omega

/-- Settles O49: the state is that of `issue_ghashMsg`, with the last chunk in `OPA` (`lastOperand_lastOperand`). -/
theorem ghashSequenceComputesGhash : Obligations.GhashSequenceComputesGhash := by
  intro a c s keyed clear table ha hc
  refine ⟨lastOperand (lastOperand s.unit.opa a) c, issue_ghashMsg clear keyed table ha hc, fun p hp => ?_,
    fun hanil hcnil => ?_, ghashMsg_length a c⟩
  · rw [lastOperand_lastOperand, hp]
    rfl
  · rw [hanil, hcnil, lastOperand_nil, lastOperand_nil]

/-! ### `ctr.data` (45_gcm_sequences.md R179) -/

/-- R179: with no data the sequence is the write of `CB` alone. -/
theorem ctrData_nil (start : Block) (s : State) :
    ctrData start [] s = .next ({ s with unit := { s.unit with cb := start } }, []) := rfl

/-- Settles O53: `ctrData_eq` says what the pieces change, `ctrData_nil` that without any nothing but `CB` does. -/
theorem ctrSequenceComputesEncryptCtr : Obligations.CtrSequenceComputesEncryptCtr := by
  intro start d s clear
  by_cases hd : d = []
  · subst hd
    exact ⟨_, ctrData_nil start s, rfl, rfl, rfl, fun _ => ⟨rfl, rfl⟩⟩
  · obtain ⟨t, hctr, opa, res, replies, rfl⟩ := ctrData_eq start d clear
    exact ⟨_, hctr, rfl, rfl, rfl, fun hnil => absurd hnil hd⟩

/-! ### The pre-counter block (45_gcm_sequences.md R176) -/

/-- R5, R140: the last four bytes of a block are in its counter. -/
theorem byte_eq_of_counter (v : Block) {i : Nat} (hi : 12 ≤ i) :
    byte v i = (v.extractLsb' 0 32 >>> (8 * (15 - i))).setWidth 8 := by
  apply BitVec.eq_of_getLsbD_eq
  intro j hj
  have hlow : 8 * (15 - i) + j < 32 := by omega
  simp [byte, hlow]

/-- R140: a block is determined by its first 12 bytes and its counter. -/
theorem block_ext_counter {v w : Block} (high : ∀ i < 12, byte v i = byte w i)
    (counter : v.extractLsb' 0 32 = w.extractLsb' 0 32) : v = w := by
  apply block_ext
  intro i _
  by_cases hi : i < 12
  · exact high i hi
  · rw [byte_eq_of_counter v (Nat.not_lt.1 hi), byte_eq_of_counter w (Nat.not_lt.1 hi), counter]

/-- R5: a byte as the bits it is. -/
theorem byte_eq_extractLsb' (v : Block) (i : Nat) : byte v i = v.extractLsb' (8 * (15 - i)) 8 := by
  apply BitVec.eq_of_getLsbD_eq
  intro j hj
  simp [byte, hj]

theorem counter_eq_bytes (v : Block) :
    v.extractLsb' 0 32 = byte v 12 ++ byte v 13 ++ byte v 14 ++ byte v 15 := by
  simp only [byte_eq_extractLsb']
  rw [BitVec.extractLsb'_append_extractLsb'_eq_extractLsb' (by rfl),
    BitVec.extractLsb'_append_extractLsb'_eq_extractLsb' (by rfl),
    BitVec.extractLsb'_append_extractLsb'_eq_extractLsb' (by rfl)]

theorem counter_inc32 (v : Block) : (inc32 v).extractLsb' 0 32 = v.extractLsb' 0 32 + 1 := by
  rw [inc32, BitVec.extractLsb'_append_eq_right]

/-- The counter of a block made of a 12-byte nonce and four more bytes. -/
theorem counter_blockOfBytes {n : List Byte} (hn : n.length = 12) (b0 b1 b2 b3 : Byte) :
    (blockOfBytes (n ++ [b0, b1, b2, b3])).extractLsb' 0 32 = b0 ++ b1 ++ b2 ++ b3 := by
  have hbyte : ∀ i < 4, byte (blockOfBytes (n ++ [b0, b1, b2, b3])) (12 + i) = [b0, b1, b2, b3].getD i 0 := by
    intro i hi
    rw [byte_blockOfBytes _ _ (by omega), List.getD_append_right _ _ _ _ (by omega), hn, Nat.add_sub_cancel_left]
  rw [counter_eq_bytes, hbyte 0 (by decide), hbyte 1 (by decide), hbyte 2 (by decide), hbyte 3 (by decide)]
  rfl

/-- R176: the increment turns the counter 1 into 2 and leaves the nonce. -/
theorem inc32_preCounter {n : List Byte} (hn : n.length = 12) :
    inc32 (preCounter n) = blockOfBytes (n ++ [0, 0, 0, 2]) := by
  apply block_ext_counter
  · intro i hi
    rw [byte_inc32 _ hi, preCounter, byte_blockOfBytes _ _ (by omega), byte_blockOfBytes _ _ (by omega),
      List.getD_append _ _ _ _ (hn ▸ hi), List.getD_append _ _ _ _ (hn ▸ hi)]
  · rw [counter_inc32, preCounter, counter_blockOfBytes hn, counter_blockOfBytes hn]
    rfl

/-- Settles O55: each block is the value of the sixteen bytes it is claimed to have. -/
theorem preCounterBlock : Obligations.PreCounterBlock := by
  intro n hn
  have hlen : ∀ b : Byte, (n ++ [0, 0, 0, b]).length = 16 := fun b => by rw [List.length_append, hn]; rfl
  exact ⟨blockBytes_blockOfBytes (hlen 1), by rw [inc32_preCounter hn, blockBytes_blockOfBytes (hlen 2)]⟩

end Sys2Proof.Machine
end

section
/-! PROOFS. The answers of the engine (spec 45_gcm_sequences.md R180 to R185, R188): `gcm.enc` and `gcm.dec` as functions
of their arguments and of `E`. -/

namespace Sys2Proof.Machine

/-! ### Encryption (45_gcm_sequences.md R181, R183) -/

/-- R180, R181: the record of a message, `N || c || tag`. -/
def gcmRecord (e : Block → Block) (n p a : List Byte) : List Byte :=
  n ++ encryptCtr e (inc32 (preCounter n)) p ++
    blockBytes (gcmTag e (e 0) (preCounter n) a (encryptCtr e (inc32 (preCounter n)) p))

/-- R183. -/
theorem gcmEnc_invalidNonce {n : List Byte} (hn : n.length ≠ 12) (p a : List Byte) (s : State) :
    gcmEnc n p a s = .next (s, .error .invalidNonceLength) := if_neg hn

/-- Settles O56: `gcmEnc_eq`, and the refusal of every other nonce. -/
theorem encryptReturnsTheRecord : Obligations.EncryptReturnsTheRecord :=
  fun _ p a s ready => ⟨fun hn => gcmEnc_invalidNonce hn p a s, gcmEnc_eq ready⟩

/-! ### Decryption, up to the comparison of the tags (45_gcm_sequences.md R182 steps 3 to 5) -/

/-- R184. -/
theorem gcmDec_short {record : List Byte} (h : record.length < 28) (a : List Byte) (s : State) :
    gcmDec record a s = .next (s, .error .dataTooShort) := if_pos h

/-- R182 steps 1 to 4: the unit that hashed the message, with `J0` and the received tag written for `TAGCMP`. -/
def tagPresented (u : GhctrUnit) (a c : List Byte) (j0 tag : Block) : GhctrUnit :=
  { messageHashed u a c with cb := j0, opa := tag }

/-- R182 steps 3 and 4: the received tag is compared with that of the message, whatever the cipher is at 0. -/
theorem issue_compareTag {a c : List Byte} (j0 tag : Block) {s : State} (clear : s.unit.err = .clear)
    (keyed : s.unit.hvalid = true) (table : TableMatches s.unit) (ha : 8 * a.length < 2 ^ 64)
    (hc : 8 * c.length < 2 ^ 64) :
    issue (ghashMsg a c ++ [.write (.cb j0), .write (.opa tag), commandOp .tagcmp]) s = .next { s with
      unit := tagCompared (tagPresented s.unit a c j0 tag) (gcmTag s.cipherAt s.unit.h j0 a c) } := by
  rw [issue_append (issue_ghashMsg clear keyed table ha hc), issue_cons (performOp_write_cb _ _),
    issue_cons (performOp_write_opa _ _)]
  exact issue_command ((exec_tagcmp_eq _).trans (next_congr_unit (tagChecked_pass _ clear keyed rfl)))

/-- R182 step 5: the `STATUS` read after the comparison decides between the error and the decryption. -/
theorem gcmDec_compared {n c t a : List Byte} {s : State} {u : GhctrUnit} (hn : n.length = 12) (ht : t.length = 16)
    (hcmp : issue (ghashMsg a c ++ [.write (.cb (preCounter n)), .write (.opa (blockOfBytes t)),
      commandOp .tagcmp]) s = .next { s with unit := u }) :
    gcmDec (n ++ c ++ t) a s =
      if rejects (.bits32 (statusWord u)) then
        .next ({ s with unit := acknowledge u, replies := s.replies ++ [.bits32 (statusWord u)] },
          .error .authenticationError)
      else andThen (ctrData (inc32 (preCounter n)) c
        { s with unit := u, replies := s.replies ++ [.bits32 (statusWord u)] }) fun r => .next (r.1, .ok r.2) := by
  obtain ⟨hnonce, hcipher, htag⟩ := record_parts (c := c) hn ht
  have hlen : ¬ (n ++ c ++ t).length < 28 := by simp only [List.length_append]; omega
  rw [gcmDec, if_neg hlen, hnonce, hcipher, htag, hcmp]
  simp only [andThen, readOp, readReg, issue_command (exec_clrerr _)]

/-! ### Decryption of a record with the right tag (45_gcm_sequences.md R182 step 6) -/

/-- R158: the unit after a match. -/
def tagAccepted (u : GhctrUnit) : GhctrUnit := { u with res := 0, tagok := true }

theorem tagCompared_eq_accepted {u : GhctrUnit} {expected : Block} (same : u.opa = expected) :
    tagCompared u expected = tagAccepted u := tagCompared_match same

/-- R182 step 5: the host goes on after the `STATUS` that reports a match. -/
theorem rejects_match {u : GhctrUnit} (keyed : u.hvalid = true) (hp : u.phase = .done) (hok : u.tagok = true)
    (clear : u.err = .clear) : rejects (.bits32 (statusWord u)) = false := by
  rw [statusWord, keyed, hp, hok, clear]
  decide

/-- R182: on the tag of its message `gcm.dec` answers the plaintext. -/
theorem gcmDec_match {n c t a : List Byte} {s : State} (ready : Ready s) (hn : n.length = 12) (ht : t.length = 16)
    (hc : 8 * c.length < 2 ^ 64) (ha : 8 * a.length < 2 ^ 64)
    (same : blockOfBytes t = gcmTag s.cipherAt (s.cipherAt 0) (preCounter n) a c) :
    ∃ u, gcmDec (n ++ c ++ t) a s = .next (u, .ok (encryptCtr s.cipherAt (inc32 (preCounter n)) c)) ∧
      Ready u ∧ u.unit.tagok = true := by
  have hsame : (tagPresented s.unit a c (preCounter n) (blockOfBytes t)).opa =
      gcmTag s.cipherAt s.unit.h (preCounter n) a c := by rw [ready.subkey]; exact same
  have hcmp := issue_compareTag (preCounter n) (blockOfBytes t) ready.sound ready.keyed ready.table ha hc
  rw [tagCompared_eq_accepted hsame] at hcmp
  have haccept := rejects_match (u := tagAccepted (tagPresented s.unit a c (preCounter n) (blockOfBytes t)))
    ready.keyed rfl rfl ready.sound
  have hnext : Ready { s with
      unit := tagAccepted (tagPresented s.unit a c (preCounter n) (blockOfBytes t))
      replies := s.replies ++
        [.bits32 (statusWord (tagAccepted (tagPresented s.unit a c (preCounter n) (blockOfBytes t))))] } :=
    ready_congr ready rfl rfl rfl rfl rfl
  obtain ⟨u, hctr, hadv⟩ := ctrData_eq (inc32 (preCounter n)) c hnext.sound
  have hready := ready_advancedBy hnext hadv
  obtain ⟨opa, res, replies, rfl⟩ := hadv
  rw [gcmDec_compared hn ht hcmp, if_neg (Bool.eq_false_iff.1 haccept), hctr]
  exact ⟨_, rfl, hready, rfl⟩

/-! ### Decryption of a record with another tag (45_gcm_sequences.md R185) -/

/-- R158: the unit after a mismatch. -/
def tagRejected (u : GhctrUnit) : GhctrUnit := { u with res := 0, tagok := false, err := .auth }

theorem tagCompared_eq_rejected {u : GhctrUnit} {expected : Block} (differs : u.opa ≠ expected)
    (clear : u.err = .clear) : tagCompared u expected = tagRejected u := tagCompared_mismatch clear differs

/-- R185: the rejection asks the cipher at `J0` alone, so it needs no subkey derived from this cipher. -/
theorem gcmDec_mismatch_of_keyed {n c t a : List Byte} {s : State} (clear : s.unit.err = .clear)
    (keyed : s.unit.hvalid = true) (table : TableMatches s.unit) (hn : n.length = 12) (ht : t.length = 16)
    (hc : 8 * c.length < 2 ^ 64) (ha : 8 * a.length < 2 ^ 64)
    (differs : blockOfBytes t ≠ gcmTag s.cipherAt s.unit.h (preCounter n) a c) :
    gcmDec (n ++ c ++ t) a s = .next ({ s with
      unit := { messageHashed s.unit a c with cb := preCounter n, opa := blockOfBytes t, res := 0, err := .clear }
      replies := s.replies ++ [.bits32 0x00000607] }, .error .authenticationError) := by
  have hdiffers : (tagPresented s.unit a c (preCounter n) (blockOfBytes t)).opa ≠
      gcmTag s.cipherAt s.unit.h (preCounter n) a c := differs
  have hcmp := issue_compareTag (preCounter n) (blockOfBytes t) clear keyed table ha hc
  rw [tagCompared_eq_rejected hdiffers clear] at hcmp
  have hstatus := statusWord_mismatch (u := tagRejected (tagPresented s.unit a c (preCounter n) (blockOfBytes t)))
    keyed rfl rfl rfl
  rw [gcmDec_compared hn ht hcmp, hstatus, if_pos rejects_mismatch]
  rfl

/-- Settles O57: the comparison tells the two tags apart (`gcmDec_match`, `gcmDec_mismatch`); a cipher that agrees at
`J0` expects the same tag, and the rejection asks it nothing else (`gcmDec_mismatch_of_keyed`). -/
theorem decryptVerifiesBeforeDecrypting : Obligations.DecryptVerifiesBeforeDecrypting := by
  intro n c t a s ready
  refine ⟨fun record h => gcmDec_short h a s, fun hn ht hc ha => ⟨gcmDec_match ready hn ht hc ha, fun differs => ?_⟩⟩
  refine ⟨_, gcmDec_mismatch ready hn ht hc ha differs, ready_congr ready rfl rfl rfl ready.sound.symm rfl, rfl, rfl,
    rfl, rfl, fun points agrees => ?_⟩
  have htag : gcmTag (applyCipher points) s.unit.h (preCounter n) a c =
      gcmTag s.cipherAt (s.cipherAt 0) (preCounter n) a c := by rw [gcmTag, agrees, ready.subkey, gcmTag]
  exact gcmDec_mismatch_of_keyed (s := { s with cipher := points }) ready.sound ready.keyed ready.table hn ht hc ha
    fun heq => differs (heq.trans htag)

/-! ### Decryption of what was encrypted (45_gcm_sequences.md R188, properties 1 and 3) -/

theorem gcmRecord_length (e : Block → Block) {n : List Byte} (hn : n.length = 12) (p a : List Byte) :
    (gcmRecord e n p a).length = 28 + p.length := by
  rw [gcmRecord, List.length_append, List.length_append, blockBytes_length, encryptCtr_length, hn]
  omega

/-- R180: what stands between nonce and tag is the ciphertext. -/
theorem recordCiphertext_gcmRecord (e : Block → Block) {n : List Byte} (hn : n.length = 12) (p a : List Byte) :
    recordCiphertext (gcmRecord e n p a) = encryptCtr e (inc32 (preCounter n)) p := by
  obtain ⟨-, hcipher, -⟩ := record_parts (c := encryptCtr e (inc32 (preCounter n)) p) hn (blockBytes_length _)
  exact hcipher

/-- R188 property 1: both passes use the same keystream, so the plaintext comes back. -/
theorem gcmDec_gcmRecord {n p a : List Byte} {s : State} (ready : Ready s) (hn : n.length = 12)
    (hp : 8 * p.length < 2 ^ 64) (ha : 8 * a.length < 2 ^ 64) :
    ∃ u, gcmDec (gcmRecord s.cipherAt n p a) a s = .next (u, .ok p) := by
  have hc : 8 * (encryptCtr s.cipherAt (inc32 (preCounter n)) p).length < 2 ^ 64 := by rwa [encryptCtr_length]
  obtain ⟨u, hdec, -⟩ := gcmDec_match ready hn (blockBytes_length _) hc ha (blockOfBytes_blockBytes _)
  rw [encryptCtr_encryptCtr] at hdec
  exact ⟨u, hdec⟩

/-- Settles O58: the state that `gcm.enc` leaves is `Ready` under the same cipher, so `gcmDec_gcmRecord` applies. -/
theorem decryptUndoesEncrypt : Obligations.DecryptUndoesEncrypt := by
  intro n p a s ready hn hp ha
  obtain ⟨t, henc, hready, hcipher, -, -⟩ := gcmEnc_eq ready hn hp ha
  obtain ⟨u, hdec⟩ := gcmDec_gcmRecord hready hn hp ha
  rw [cipherAt_congr hcipher] at hdec
  refine ⟨gcmRecord s.cipherAt n p a, t, u, henc, gcmRecord_length _ hn p a, ?_, hdec⟩
  rw [recordCiphertext_gcmRecord _ hn, encryptCtr_length]

/-! ### The calls as functions of their arguments and of `E` (45_gcm_sequences.md R188, property 4) -/

/-- R181, R183: what `gcm.enc` answers under the cipher `e`. -/
def encryptionAnswer (e : Block → Block) (n p a : List Byte) : Except HostError (List Byte) :=
  if n.length = 12 then .ok (gcmRecord e n p a) else .error .invalidNonceLength

theorem gcmEnc_answers {n p a : List Byte} {s : State} (ready : Ready s) (hp : 8 * p.length < 2 ^ 64)
    (ha : 8 * a.length < 2 ^ 64) : ∃ t, gcmEnc n p a s = .next (t, encryptionAnswer s.cipherAt n p a) := by
  by_cases hn : n.length = 12
  · obtain ⟨t, henc, -⟩ := gcmEnc_eq ready hn hp ha
    rw [encryptionAnswer, if_pos hn]
    exact ⟨t, henc⟩
  · rw [encryptionAnswer, if_neg hn]
    exact ⟨s, gcmEnc_invalidNonce hn p a s⟩

/-- R182, R184, R185: what `gcm.dec` answers under the cipher `e`. -/
def decryptionAnswer (e : Block → Block) (record a : List Byte) : Except HostError (List Byte) :=
  if record.length < 28 then .error .dataTooShort
  else if blockOfBytes (recordTag record) =
      gcmTag e (e 0) (preCounter (recordNonce record)) a (recordCiphertext record) then
    .ok (encryptCtr e (inc32 (preCounter (recordNonce record))) (recordCiphertext record))
  else .error .authenticationError

/-- R180: a record of at least 28 bytes is its three parts. -/
theorem record_eq_parts {record : List Byte} (h : 28 ≤ record.length) :
    (recordNonce record).length = 12 ∧ (recordTag record).length = 16 ∧
      recordNonce record ++ recordCiphertext record ++ recordTag record = record := by
  have htag : recordTag record = (record.drop 12).drop (record.length - 28) := by
    rw [recordTag, List.drop_drop, show 12 + (record.length - 28) = record.length - 16 by omega]
  refine ⟨List.length_take_of_le (by omega), ?_, ?_⟩
  · rw [recordTag, List.length_drop]
    omega
  · rw [htag, recordCiphertext, List.append_assoc, List.take_append_drop, recordNonce, List.take_append_drop]

theorem gcmDec_answers {record a : List Byte} {s : State} (ready : Ready s)
    (hc : 8 * (recordCiphertext record).length < 2 ^ 64) (ha : 8 * a.length < 2 ^ 64) :
    ∃ t, gcmDec record a s = .next (t, decryptionAnswer s.cipherAt record a) := by
  by_cases hlen : record.length < 28
  · rw [decryptionAnswer, if_pos hlen]
    exact ⟨s, gcmDec_short hlen a s⟩
  obtain ⟨hn, ht, hparts⟩ := record_eq_parts (Nat.not_lt.1 hlen)
  rw [decryptionAnswer, if_neg hlen]
  split
  case isTrue same =>
    obtain ⟨t, hdec, -⟩ := gcmDec_match ready hn ht hc ha same
    rw [hparts] at hdec
    exact ⟨t, hdec⟩
  case isFalse differs =>
    have hdec := gcmDec_mismatch ready hn ht hc ha differs
    rw [hparts] at hdec
    exact ⟨_, hdec⟩

end Sys2Proof.Machine
end

section
/-! PROOFS. What the engine's answers depend on, and the document's vectors and scenario (spec 45_gcm_sequences.md R188;
95_test_vectors.md T-SRC-1 to T-SRC-3, T-SEQ-1). -/

namespace Sys2Proof.Machine

open Sys2Proof.Statements

/-! ### The answers, as functions of the arguments and of `E` (45_gcm_sequences.md R188, property 4) -/

theorem gcmEnc_deterministic {n p a : List Byte} {s s' : State} (ready : Ready s) (ready' : Ready s')
    (hE : ∀ v, s'.cipherAt v = s.cipherAt v) (hp : 8 * p.length < 2 ^ 64) (ha : 8 * a.length < 2 ^ 64) :
    ∃ r t t', gcmEnc n p a s = .next (t, r) ∧ gcmEnc n p a s' = .next (t', r) := by
  obtain ⟨t, h⟩ := gcmEnc_answers (n := n) ready hp ha
  obtain ⟨t', h'⟩ := gcmEnc_answers (n := n) ready' hp ha
  rw [funext hE] at h'
  exact ⟨_, t, t', h, h'⟩

theorem gcmDec_deterministic {record a : List Byte} {s s' : State} (ready : Ready s) (ready' : Ready s')
    (hE : ∀ v, s'.cipherAt v = s.cipherAt v) (hc : 8 * (recordCiphertext record).length < 2 ^ 64)
    (ha : 8 * a.length < 2 ^ 64) :
    ∃ r t t', gcmDec record a s = .next (t, r) ∧ gcmDec record a s' = .next (t', r) := by
  obtain ⟨t, h⟩ := gcmDec_answers ready hc ha
  obtain ⟨t', h'⟩ := gcmDec_answers ready' hc ha
  rw [funext hE] at h'
  exact ⟨_, t, t', h, h'⟩

/-! ### The vectors (95_test_vectors.md) -/

/-- A record from the values its parts are made of. -/
theorem gcmRecord_of_values {e : Block → Block} {n p a c : List Byte} {j0 j1 h k tag : Block} (hj0 : preCounter n = j0)
    (hj1 : inc32 j0 = j1) (hc : encryptCtr e j1 p = c) (hh : e 0 = h) (hk : e j0 = k)
    (htag : ghash h a c ^^^ k = tag) : gcmRecord e n p a = n ++ c ++ blockBytes tag := by
  rw [gcmRecord, hj0, hj1, hc, gcmTag, hh, hk, htag]

/-- A piece under a known keystream block. -/
theorem encryptCtr_of_value {e : Block → Block} {start k : Block} {d c : List Byte} (h0 : 0 < d.length)
    (h16 : d.length ≤ 16) (hk : e start = k) (hc : xorBytes d (blockBytes k) = c) : encryptCtr e start d = c := by
  rw [encryptCtr_short e start h0 h16, hk, hc]

/-- T-SRC-1: the hash of the empty message is 0, so the tag is `E(J0)`. -/
theorem gcmRecord_empty {e : Block → Block} (h1 : e 1 = 0x58e2fccefa7e3061367f1d57a4e7455a) :
    gcmRecord e (List.replicate 12 0) [] [] =
      List.replicate 12 0 ++ blockBytes 0x58e2fccefa7e3061367f1d57a4e7455a := by
  rw [gcmRecord_of_values (by decide) rfl (encryptCtr_nil e _) rfl h1
    ((congrArg (· ^^^ _) (ghash_nil _)).trans BitVec.zero_xor), List.append_nil]

/-- T-SRC-2. -/
theorem gcmRecord_zeros {e : Block → Block} (h0 : e 0 = nistH) (h1 : e 1 = 0x58e2fccefa7e3061367f1d57a4e7455a)
    (h2 : e 2 = 0x0388dace60b6a392f328c2b971b2fe78) :
    gcmRecord e (List.replicate 12 0) (List.replicate 16 0) [] =
      List.replicate 12 0 ++ blockBytes 0x0388dace60b6a392f328c2b971b2fe78 ++
        blockBytes 0xab6e47d42cec13bdf53a67b21257bddf :=
  gcmRecord_of_values (by decide) (by decide) (encryptCtr_of_value (by decide) (by decide) h2 (by decide)) h0 h1
    (by decide +kernel)

/-- The subkey of the document's scenario (95_test_vectors.md table E1). -/
def scenarioH : Block := 0xfde4fbae4a09e020eff722969f83832b

/-- T-SEQ-1. -/
theorem gcmRecord_scenario {e : Block → Block} {n : List Byte}
    (hn : n = [0x00, 0x01, 0x02, 0x03, 0x04, 0x05, 0x06, 0x07, 0x08, 0x09, 0x0a, 0x0b]) (h0 : e 0 = scenarioH)
    (h1 : e 0x000102030405060708090a0b00000001 = 0x8f938f40f877e0c4af37d0fe9af03305)
    (h2 : e 0x000102030405060708090a0b00000002 = 0x2bd537c4ae978f609f38299f108d41ed) :
    gcmRecord e n helloGcm ctx = n ++ [0x63, 0xb0, 0x5b, 0xa8, 0xc1, 0xb7, 0xc8, 0x23, 0xd2] ++
      blockBytes 0x38644d7db144527078bea5faed181706 :=
  gcmRecord_of_values (by rw [hn]; decide) (by decide) (encryptCtr_of_value (by decide) (by decide) h2 (by decide))
    h0 h1 (by decide +kernel)

/-! ### The scenario, for every nonce (95_test_vectors.md T-SRC-3) -/

/-- R120: the hash of two strings of one piece each, as a sum over the blocks. -/
theorem ghash_of_short (h : Block) {a c : List Byte} (ha0 : 0 < a.length) (ha : a.length ≤ 16) (hc0 : 0 < c.length)
    (hc : c.length ≤ 16) :
    ghash h a c = multiply (multiply (multiply (blockOfBytes a) h) h ^^^ lenBlock (bitLength a) (bitLength c) ^^^
      multiply (blockOfBytes c) h) h := by
  have hfirst : (0 : Block) ^^^ blockOfBytes a = blockOfBytes a := BitVec.zero_xor
  rw [ghash_of_lt h (by omega) (by omega), ghashBlocks_short _ _ ha0 ha, ghashBlocks_short _ _ hc0 hc, ghashStep,
    ghashStep, ghashStep, hfirst, multiply_xor_left (multiply (blockOfBytes a) h), BitVec.xor_assoc,
    BitVec.xor_assoc, BitVec.xor_comm (lenBlock _ _)]

/-- The ciphertext cancels: that the two hashes differ is a fact about the subkey and the two AADs alone. -/
theorem ghash_ctx_ne_wrong {c : List Byte} (hc : c.length = helloGcm.length) :
    ghash scenarioH ctx c ≠ ghash scenarioH wrong c := by
  have hc9 : c.length = 9 := hc
  have hlen : bitLength c = bitLength helloGcm := bitLength_congr hc
  rw [ghash_of_short _ (by decide) (by decide) (by omega) (by omega),
    ghash_of_short _ (by decide) (by decide) (by omega) (by omega), hlen]
  intro heq
  have hsum := (BitVec.xor_left_inj _).1 (multiply_left_injective (by decide) heq)
  revert hsum
  decide +kernel

/-- T-SRC-3: another AAD makes another hash, so another tag. -/
theorem gcmDec_gcmRecord_wrong {n : List Byte} {s : State} (ready : Ready s) (hn : n.length = 12)
    (h0 : s.cipherAt 0 = scenarioH) :
    ∃ u, gcmDec (gcmRecord s.cipherAt n helloGcm ctx) wrong s = .next (u, .error .authenticationError) := by
  have hlen : (encryptCtr s.cipherAt (inc32 (preCounter n)) helloGcm).length = helloGcm.length :=
    encryptCtr_length _ _ _
  refine ⟨_, gcmDec_mismatch ready hn (blockBytes_length _) (by rw [hlen]; decide) (by decide) ?_⟩
  rw [blockOfBytes_blockBytes]
  exact gcmTag_ne (by rw [h0]; exact ghash_ctx_ne_wrong hlen)

/-- R188 property 7. -/
theorem scenario_answers {n : List Byte} {s : State} (ready : Ready s) (hn : n.length = 12)
    (h0 : s.cipherAt 0 = scenarioH) :
    ∃ t u v, gcmEnc n helloGcm ctx s = .next (t, .ok (gcmRecord s.cipherAt n helloGcm ctx)) ∧
      gcmDec (gcmRecord s.cipherAt n helloGcm ctx) ctx t = .next (u, .ok helloGcm) ∧
      gcmDec (gcmRecord s.cipherAt n helloGcm ctx) wrong t = .next (v, .error .authenticationError) := by
  obtain ⟨t, henc, hready, hcipher, -, -⟩ := gcmEnc_eq (p := helloGcm) (a := ctx) ready hn (by decide) (by decide)
  have hE := cipherAt_congr hcipher
  obtain ⟨u, hdec⟩ := gcmDec_gcmRecord (p := helloGcm) (a := ctx) hready hn (by decide) (by decide)
  obtain ⟨v, hwrong⟩ := gcmDec_gcmRecord_wrong hready hn (by rw [hE, h0])
  rw [hE] at hdec hwrong
  exact ⟨t, u, v, henc, hdec, hwrong⟩

/-- Settles O60: `gcm.enc` answers `gcmRecord` (`gcmEnc_eq`), whose value in each vector is a lemma above. -/
theorem engineIsDeterministicAndMeetsItsVectors : Obligations.EngineIsDeterministicAndMeetsItsVectors := by
  refine ⟨fun _ _ _ _ _ => gcmEnc_deterministic, fun _ _ _ _ => gcmDec_deterministic,
    fun s ready h0 h1 => ⟨?_, fun h2 => ?_⟩, fun n s ready hn h0 => ?_⟩
  · obtain ⟨t, henc, -⟩ := gcmEnc_eq (n := List.replicate 12 0) (p := []) (a := []) ready rfl (by decide) (by decide)
    exact ⟨t, henc.trans (by rw [← gcmRecord_empty h1, gcmRecord])⟩
  · obtain ⟨t, henc, -⟩ :=
      gcmEnc_eq (n := List.replicate 12 0) (p := List.replicate 16 0) (a := []) ready rfl (by decide) (by decide)
    exact ⟨t, henc.trans (by rw [← gcmRecord_zeros h0 h1 h2, gcmRecord])⟩
  · obtain ⟨t, u, v, henc, hdec, hwrong⟩ := scenario_answers ready hn h0
    exact ⟨_, t, u, v, henc, hdec, hwrong, fun hnonce h1 h2 => gcmRecord_scenario hnonce h0 h1 h2⟩

end Sys2Proof.Machine
end

section
/-! PROOFS. The faults (spec 60_exceptions.md): which one an operation records (R201 to R203), what else it writes
(R206), and the faulted state (R204, R205, R208). -/

namespace Sys2Proof.Machine

open Sys2Proof.Statements

/-! ### The first check that fails (60_exceptions.md R203) -/

/-- R203: of some checks in their order, each with the fault it records, the fault of the first that fails. -/
def firstFailing : List (Bool × ErrCode) → ErrCode
  | [] => .clear
  | (c, e) :: rest => if c then firstFailing rest else e

theorem firstFailing_pass {c : Bool} (h : c = true) (e : ErrCode) (rest : List (Bool × ErrCode)) :
    firstFailing ((c, e) :: rest) = firstFailing rest := if_pos h

theorem firstFailing_fail {c : Bool} (h : c = false) (e : ErrCode) (rest : List (Bool × ErrCode)) :
    firstFailing ((c, e) :: rest) = e := by rw [firstFailing, h]; rfl

/-- The checks record their own faults and no other. -/
theorem firstFailing_mem {checks : List (Bool × ErrCode)} (h : firstFailing checks ≠ .clear) :
    firstFailing checks ∈ checks.map Prod.snd := by
  induction checks with
  | nil => exact absurd rfl h
  | cons check rest ih =>
    obtain ⟨c, e⟩ := check
    cases c with
    | false => exact List.mem_cons_self
    | true => exact List.mem_cons_of_mem _ (ih h)

/-- R8: a check put before others, in terms of what is recorded. -/
theorem err_requireElse {u k : GhctrUnit} {c : Bool} {e : ErrCode} {rest : List (Bool × ErrCode)}
    (clear : u.err = .clear) (hk : k.err = firstFailing rest) :
    (requireElse c e u k).err = firstFailing ((c, e) :: rest) := by
  cases c with
  | false => rw [requireElse_fail e u k rfl, raise_of_clear e clear]; rfl
  | true => exact hk

theorem err_unlessFaulted {u k : GhctrUnit} {e : ErrCode} (clear : u.err = .clear) (hk : k.err = e) :
    (unlessFaulted u k).err = e := by rw [unlessFaulted_clear k clear, hk]

/-- R158: the comparison of `TAGCMP` is the check of `ERR_AUTH`. -/
theorem tagCompared_err {u : GhctrUnit} (expected : Block) (clear : u.err = .clear) :
    (tagCompared u expected).err = firstFailing [(tagEqual u.opa expected, .auth)] := by
  cases hq : tagEqual u.opa expected with
  | true => rw [tagCompared_match ((tagEqual_iff _ _).1 hq)]; exact clear
  | false => rw [tagCompared_mismatch clear fun same => by simp [(tagEqual_iff _ _).2 same] at hq]; rfl

/-! ### The checks of a command, by the fault they record (60_exceptions.md R201) -/

/-- R201, R28: the check of `ERR_NOH`. -/
def subkeyPresent (i : Instr) (u : GhctrUnit) : Bool :=
  match i with
  | .hmul | .ghaad _ | .ghct _ | .ghlen | .taggen | .tagcmp => u.hvalid
  | .nop | .gfmul | .hload | .hkey | .ghinit | .inc32 | .ctrxor _ | .clrerr | .sreset => true

/-- R201, R124: the check of `ERR_SEQ`. -/
def sequenceAllowed (i : Instr) (u : GhctrUnit) : Bool :=
  match i with
  | .hload | .hkey => subkeyLoadable u
  | .ghaad _ => aadAllowed u
  | .ghct _ => ctAllowed u
  | .ghlen => messageOpen u
  | .taggen | .tagcmp => tagAllowed u
  | .nop | .gfmul | .hmul | .ghinit | .inc32 | .ctrxor _ | .clrerr | .sreset => true

/-- R201: the check of `ERR_LEN`. -/
def counterFits (i : Instr) (u : GhctrUnit) : Bool :=
  match i with
  | .ghaad nb => lengthFits u.lena nb
  | .ghct nb => lengthFits u.lenc nb
  | .nop | .gfmul | .hload | .hkey | .hmul | .ghinit | .ghlen | .inc32 | .ctrxor _ | .taggen | .tagcmp | .clrerr
  | .sreset => true

/-- R201, R158: the check of `ERR_AUTH`. -/
def tagMatches (i : Instr) (s : State) : Bool :=
  match i with
  | .tagcmp => tagEqual s.unit.opa (s.unit.y ^^^ s.cipherAt s.unit.cb)
  | .nop | .gfmul | .hload | .hkey | .hmul | .ghinit | .ghaad _ | .ghct _ | .ghlen | .inc32 | .ctrxor _ | .taggen
  | .clrerr | .sreset => true

/-- R203: the fault a command records, its five checks taken in the order of the rule. `exec_err` ties it to `exec`. -/
def commandFault (i : Instr) (s : State) : ErrCode :=
  firstFailing [(i.wellFormed, .nb), (subkeyPresent i s.unit, .noh), (sequenceAllowed i s.unit, .seq),
    (counterFits i s.unit, .len), (tagMatches i s, .auth)]

/-- R75, R203: each meaning makes the checks of `commandFault` that can fail for it, in that order, and its effect
leaves `ERR` clear. -/
theorem exec_err {i : Instr} {s t : State} (clear : s.unit.err = .clear) (h : exec i s = .next t) :
    t.unit.err = commandFault i s := by
  cases i with
  | nop => cases h; exact clear
  | clrerr | sreset => cases h; rfl
  | gfmul | ghinit | inc32 => cases h; exact err_unlessFaulted clear clear
  | hload | hkey | hmul | ctrxor nb => cases h; exact err_unlessFaulted clear (err_requireElse clear clear)
  | ghlen | taggen =>
    cases h
    exact err_unlessFaulted clear (err_requireElse clear (err_requireElse clear clear))
  | tagcmp =>
    cases h
    exact err_unlessFaulted clear (err_requireElse clear (err_requireElse clear (tagCompared_err _ clear)))
  | ghaad nb | ghct nb =>
    cases h
    exact err_unlessFaulted clear (err_requireElse clear (err_requireElse clear (err_requireElse clear
      (err_requireElse clear clear))))

/-! ### The checks, in terms of the word (60_exceptions.md R201) -/

section
variable {w : Word} {i : Instr}

/-- R75 step 6: the opcodes of the commands that need a subkey. -/
theorem subkeyPresent_iff (h : decode w = .ok i) (u : GhctrUnit) :
    subkeyPresent i u = true ↔ (opcodeField w ∈ subkeyOpcodes → u.hvalid = true) := by
  obtain ⟨-, ho, -⟩ := (decode_eq_ok_iff_fields w i).1 h
  rw [ho]
  cases i with
  | hmul | ghaad nb | ghct nb | ghlen | taggen | tagcmp => simp [subkeyPresent, Instr.opcode, subkeyOpcodes]
  | _ => simp [subkeyPresent, Instr.opcode, subkeyOpcodes]

theorem badSequence_iff (h : decode w = .ok i) (u : GhctrUnit) :
    BadSequence w u ↔ sequenceAllowed i u = false := by
  obtain ⟨-, ho, -⟩ := (decode_eq_ok_iff_fields w i).1 h
  rw [BadSequence, ho, ← Bool.not_eq_true]
  cases i with
  | hload | hkey => simp [sequenceAllowed, Instr.opcode, subkeyLoadable_iff]
  | ghaad nb => simp [sequenceAllowed, Instr.opcode, aadAllowed_iff]
  | ghct nb => simp [sequenceAllowed, Instr.opcode, ctAllowed_iff]
  | ghlen => simp [sequenceAllowed, Instr.opcode, messageOpen_iff]
  | taggen | tagcmp => simp [sequenceAllowed, Instr.opcode, tagAllowed_iff]
  | _ => simp [sequenceAllowed, Instr.opcode]

theorem badLength_iff (h : decode w = .ok i) (u : GhctrUnit) : BadLength w u ↔ counterFits i u = false := by
  obtain ⟨-, ho, hc⟩ := (decode_eq_ok_iff_fields w i).1 h
  rw [BadLength, ho, hc, ← Bool.not_eq_true]
  cases i with
  | ghaad nb | ghct nb => simp [counterFits, Instr.opcode, Instr.count, lengthFits_iff]
  | _ => simp [counterFits, Instr.opcode]

theorem badTag_iff (h : decode w = .ok i) (s : State) : BadTag w s ↔ tagMatches i s = false := by
  obtain ⟨-, ho, -⟩ := (decode_eq_ok_iff_fields w i).1 h
  rw [BadTag, ho, ← Bool.not_eq_true]
  cases i with
  | tagcmp => simp [tagMatches, Instr.opcode, tagEqual_iff]
  | _ => simp [tagMatches, Instr.opcode]

end

/-! ### Which fault a word records (60_exceptions.md R203) -/

/-- Settles O15: a word that is no command records `ERR_OPCODE`; any other runs its command, which records the fault of
the first failing check (`exec_err`), and each condition on the word is one of the checks. -/
theorem faultPriority : Obligations.FaultPriority := by
  intro w s clear
  by_cases hopc : BadOpcode w
  · exact ⟨_, executeWord_badOpcode clear hopc, fun _ => rfl, by simp [hopc]⟩
  obtain ⟨i, hi⟩ := (not_badOpcode_iff w).1 hopc
  obtain ⟨u, hu⟩ := executeWord_next w s
  have herr := exec_err clear ((executeWord_of_decode hi s).symm.trans hu)
  refine ⟨_, hu, fun h => absurd h hopc, ?_⟩
  rw [herr, badCount_iff hi, badSequence_iff hi, badLength_iff hi, badTag_iff hi, ← subkeyPresent_iff hi, commandFault]
  simp only [Bool.not_eq_false]
  refine ⟨fun _ hnb => firstFailing_fail hnb _ _, fun _ hnb hsub unkeyed => ?_, fun _ hnb hnoh hseq => ?_,
    fun _ hnb hnoh hseq hlen => ?_, fun _ hnb hnoh hseq hlen hauth => ?_, fun _ hnb hnoh hseq hlen hauth => ?_⟩
  · have hnoh : subkeyPresent i s.unit = false := by
      rw [← Bool.not_eq_true, subkeyPresent_iff hi]
      exact fun keyed => by simp [keyed hsub] at unkeyed
    rw [firstFailing_pass hnb, firstFailing_fail hnoh]
  · rw [firstFailing_pass hnb, firstFailing_pass hnoh, firstFailing_fail hseq]
  · rw [firstFailing_pass hnb, firstFailing_pass hnoh, firstFailing_pass hseq, firstFailing_fail hlen]
  · rw [firstFailing_pass hnb, firstFailing_pass hnoh, firstFailing_pass hseq, firstFailing_pass hlen,
      firstFailing_fail hauth]
  · rw [firstFailing_pass hnb, firstFailing_pass hnoh, firstFailing_pass hseq, firstFailing_pass hlen,
      firstFailing_pass hauth, firstFailing]

/-! ### Which faults an operation can record (60_exceptions.md R202) -/

/-- R202: a read records at most `ERR_ACCESS`, and so does a write to a register other than `CMD`. -/
theorem performOp_keeps_err_or_access {o : HostOp} {s t : State} (h : performOp o s = .next t)
    (hcmd : ∀ w, o ≠ .write (.cmd w)) : t.unit.err = s.unit.err ∨ t.unit = raise .access s.unit := by
  cases o with
  | read r =>
    cases h
    exact (readReg_unit r s.unit).imp_left (congrArg _)
  | write w =>
    cases w with
    | cmd w => exact absurd rfl (hcmd w)
    | opa v | opb v | cb v => cases h; exact .inl rfl
    | status v | res v | y v | lena v | lenc v | unmapped k => cases h; exact .inr rfl

/-- Settles O17: the checks that can fail for the command are its list in R202 (`exec_err`, `firstFailing_mem`). -/
theorem commandsRaiseOnlyTheirFaults : Obligations.CommandsRaiseOnlyTheirFaults := by
  refine ⟨fun i s t clear h faulted => ?_, fun w s t clear hw h => ?_, fun o s t hcmd clear h faulted => ?_⟩
  · have herr := exec_err clear h
    rw [herr] at faulted ⊢
    cases i with
    | nop | gfmul | ghinit | inc32 | clrerr | sreset => exact faulted rfl
    | hload | hkey => exact List.mem_singleton.1 (firstFailing_mem (checks := [(_, .seq)]) faulted)
    | hmul => exact List.mem_singleton.1 (firstFailing_mem (checks := [(_, .noh)]) faulted)
    | ctrxor nb => exact List.mem_singleton.1 (firstFailing_mem (checks := [(_, .nb)]) faulted)
    | ghaad nb | ghct nb =>
      exact firstFailing_mem (checks := [(_, .nb), (_, .noh), (_, .seq), (_, .len)]) faulted
    | ghlen | taggen => exact firstFailing_mem (checks := [(_, .noh), (_, .seq)]) faulted
    | tagcmp => exact firstFailing_mem (checks := [(_, .noh), (_, .seq), (_, .auth)]) faulted
  · have hopc : BadOpcode w := by_contra fun good => not_exists.2 hw ((not_badOpcode_iff w).1 good)
    cases (executeWord_badOpcode clear hopc).symm.trans h
    rfl
  · rcases performOp_keeps_err_or_access h hcmd with kept | raised
    · exact absurd (kept.trans clear) faulted
    · rw [raised, raise_of_clear .access clear]

/-! ### What else a fault writes (60_exceptions.md R206) -/

/-- R158, R201: no check of a command is that of `ERR_AUTH`, and of the commands that complete only `TAGCMP` records
it. -/
theorem exec_auth {i : Instr} {s t : State} (clear : s.unit.err = .clear) (h : exec i s = .next t)
    (hauth : t.unit.err = .auth) : i = .tagcmp ∧ MismatchFaulted s.unit t.unit := by
  rcases exec_cases h with ⟨hf, -⟩ | ⟨c, hc, hv⟩ | hc
  · exact absurd clear hf
  · rw [hv, raise_of_clear c clear] at hauth
    exact absurd hauth hc
  generalize t.unit = v at hc hauth ⊢
  cases hc with
  | tagMismatch => exact ⟨rfl, clear, rfl⟩
  | clrerr | sreset => cases hauth
  | _ => cases clear.symm.trans hauth

/-- R206: the one operation that records `ERR_AUTH`. -/
theorem performOp_auth {o : HostOp} {s t : State} (clear : s.unit.err = .clear) (h : performOp o s = .next t)
    (hauth : t.unit.err = .auth) : o = .write (.cmd (encode .tagcmp)) ∧ MismatchFaulted s.unit t.unit := by
  by_cases hcmd : ∃ w, o = .write (.cmd w)
  · obtain ⟨w, rfl⟩ := hcmd
    rcases executeWord_cases w s with ⟨i, hi, hx⟩ | ⟨hf, -⟩ | ⟨e, -, -, hx⟩
    · obtain ⟨rfl, mismatch⟩ := exec_auth clear (hx.symm.trans h) hauth
      exact ⟨by rw [encode_of_decode hi], mismatch⟩
    · exact absurd clear hf
    · cases hx.symm.trans h
      rw [raise_of_clear .opcode clear] at hauth
      cases hauth
  · rcases performOp_keeps_err_or_access h (not_exists.1 hcmd) with kept | raised
    · cases hauth.symm.trans (kept.trans clear)
    · rw [raised, raise_of_clear .access clear] at hauth
      cases hauth

/-- Settles O16: of the outcomes of an operation (`performOp_outcome`) two are faults, and `ERR_AUTH` is only the second
(`performOp_auth`). -/
theorem faultsArePrecise : Obligations.FaultsArePrecise := by
  refine fun o s t h clear faulted => ⟨fun notAuth => ?_, fun hauth => ?_⟩
  · rcases performOp_outcome h with ((kept | cleared) | ⟨-, -, errOnly⟩) | ⟨-, mismatch⟩
    · exact absurd (kept.trans clear) faulted
    · exact absurd cleared faulted
    · exact errOnly
    · exact absurd (mismatchFaulted_err mismatch) notAuth
  · exact (performOp_auth clear h hauth).imp_right And.right

/-! ### The faulted state (60_exceptions.md R204, R205, R208) -/

/-- R205: a faulted unit refuses one word after another. -/
theorem issue_refused {s : State} (hf : s.unit.err ≠ .clear) {ws : List Word}
    (hws : ∀ w ∈ ws, w ≠ 0x0000007E ∧ w ≠ 0x0000007F) : issue (ws.map fun w => .write (.cmd w)) s = .next s := by
  induction ws with
  | nil => rfl
  | cons w ws ih =>
    obtain ⟨⟨hc, hs⟩, hrest⟩ := List.forall_mem_cons.1 hws
    have hw : performOp (.write (.cmd w)) s = .next s := executeWord_refused hf hc hs
    exact (issue_cons hw _).trans (ih hrest)

/-- R53: the eight readable registers are read without a fault. -/
theorem readReg_readable {r : Reg} (h : r ∈ [Reg.status, .opa, .opb, .res, .y, .cb, .lena, .lenc]) (u : GhctrUnit) :
    (readReg r u).1 = u := by
  cases r with
  | cmd | unmapped k => simp at h
  | _ => rfl

/-- Settles O18: the words by `issue_refused`; a read or a write of the host does not look at `ERR`. -/
theorem faultedStateRefusesCommands : Obligations.FaultedStateRefusesCommands :=
  fun s hf => ⟨fun _ => issue_refused hf, fun _ hr => performOp_read_value (Prod.ext (readReg_readable hr s.unit) rfl),
    fun _ => rfl, fun _ => rfl, fun _ => rfl⟩

theorem raise_err_ne_clear {e : ErrCode} (he : e ≠ .clear) (u : GhctrUnit) : (raise e u).err ≠ .clear := by
  rcases raise_cases e u with ⟨-, hr⟩ | ⟨hf, hr⟩ <;> rw [hr]
  · exact he
  · exact hf

/-- R208: nothing but `ERR` was written, so acknowledging a raised fault leaves no trace of it. -/
theorem acknowledge_raise (e : ErrCode) (u : GhctrUnit) : acknowledge (raise e u) = acknowledge u := by
  rcases raise_cases e u with ⟨-, hr⟩ | ⟨-, hr⟩ <;> rw [hr]
  rfl

/-- Settles O19: the two cases of `raise`; a raised fault leaves the unit faulted, an acknowledged one does not. -/
theorem firstFaultIsKept : Obligations.FirstFaultIsKept := by
  refine fun u e f he => ⟨raise_of_clear e, raise_of_faulted e, raise_of_faulted f (raise_err_ne_clear he u), ?_⟩
  rw [acknowledge_raise, raise_of_clear f rfl]
  rfl

end Sys2Proof.Machine
end
